-- ==== Sys2Proof/Word.lean ====
section
/-! DEFINITION. The word types of the engine: the 32-bit datum (`00_scope.md` R5, R7) and the 36-bit transaction word
(`30_encoding.md` R47). Addition and subtraction of `Word` wrap modulo 2^32 and shifts are logical, which is what R7 and
R8 ask of every operator. -/

namespace Sys2Proof

/-- A datum of the engine, unsigned 32 bits: a key word, a block word, the running sum, bus data (R5). -/
abbrev Word := BitVec 32

/-- A transaction word `TW = {WE, A[2:0], D[31:0]}` (R47). -/
abbrev TransactionWord := BitVec 36

end Sys2Proof
end

