-- ==== Sys2Proof/Syntax.lean ====
section
/-! DEFINITION. The instructions: one bus transaction each, one constructor per row of `opcode_table.json` (`30_encoding.md`
R48, R59). Register numbers are decoded into names here, so the machine never sees raw encodings. -/

namespace Sys2Proof

/-- The four key registers KEY[0..3] (`10_state.md` R16). -/
inductive KeyReg where
  | k0 | k1 | k2 | k3
  deriving DecidableEq, Repr

/-- The two block registers: DATA[0] holds V0, DATA[1] holds V1 (`10_state.md` R19). -/
inductive DataReg where
  | v0 | v1
  deriving DecidableEq, Repr

/-- One bus transaction (R48, R59). A read carries no `D`, because its `D` has no meaning (R49). -/
inductive Instr where
  /-- RD_KEYn (R63). -/
  | rdKey (n : KeyReg)
  /-- RD_DATAn (R65). -/
  | rdData (n : DataReg)
  /-- RD_CTRL (R67). -/
  | rdCtrl
  /-- RD_STATUS (R69). -/
  | rdStatus
  /-- WR_KEYn with the key word `d` (R62). -/
  | wrKey (n : KeyReg) (d : Word)
  /-- WR_DATAn with the block word `d` (R64). -/
  | wrData (n : DataReg) (d : Word)
  /-- WR_CTRL with CMD = 0b00 and the fields CLR and KEYCLR (R99). -/
  | wrCtrlNop (clr keyclr : Bool)
  /-- WR_CTRL with CMD = 0b01 and the fields CLR and KEYCLR (R76). -/
  | wrCtrlEnc (clr keyclr : Bool)
  /-- WR_CTRL with CMD = 0b10 and the fields CLR and KEYCLR (R86). -/
  | wrCtrlDec (clr keyclr : Bool)
  /-- WR_CTRL with an illegal command word `d` (R100). -/
  | wrCtrlIllegal (d : Word)
  /-- WR_STATUS; `d` is ignored (R68). -/
  | wrStatus (d : Word)
  deriving DecidableEq, Repr

end Sys2Proof
end

