-- ==== Sys2Proof/Machine/Operands.lean ====
section
/-! DEFINITION. The operand forms: the register-number field `A` (`30_encoding.md` R48) and the fields of the command word
written to CTRL (R50). Nothing else is assembled: the data `D` of WR_KEYn and WR_DATAn is stored bit for bit (R54). -/

namespace Sys2Proof

/-- The key register that the bits `A[1]`, `A[0]` name (R48). -/
def KeyReg.ofBits (a1 a0 : Bool) : KeyReg :=
  match a1, a0 with
  | false, false => .k0
  | false, true => .k1
  | true, false => .k2
  | true, true => .k3

/-- The number `n` of KEY[n] (R16). -/
def KeyReg.index (n : KeyReg) : Nat :=
  match n with
  | .k0 => 0
  | .k1 => 1
  | .k2 => 2
  | .k3 => 3

/-- The block register that the bit `A[0]` names (R48). -/
def DataReg.ofBit (a0 : Bool) : DataReg :=
  match a0 with
  | false => .v0
  | true => .v1

/-- The number `n` of DATA[n] (R19). -/
def DataReg.index (n : DataReg) : Nat :=
  match n with
  | .v0 => 0
  | .v1 => 1

/-- CMD, bits 1:0 of a command word (R50). -/
def cmdField (d : Word) : BitVec 2 := d.extractLsb' 0 2

/-- CLR, bit 2 of a command word (R50). -/
def clrField (d : Word) : Bool := d.getLsbD 2

/-- KEYCLR, bit 3 of a command word (R50). -/
def keyclrField (d : Word) : Bool := d.getLsbD 3

/-- RSV, bits 31:4 of a command word (R50). -/
def rsvField (d : Word) : BitVec 28 := d.extractLsb' 4 28

/-- A command word is legal if and only if `RSV = 0` and `CMD != 0b11` (R50). -/
def commandLegal (d : Word) : Bool := rsvField d == 0#28 && cmdField d != 0b11#2

/-- The command word with the given CMD, CLR and KEYCLR, and RSV = 0 (R50). -/
def commandWord (cmd : BitVec 2) (clr keyclr : Bool) : Word :=
  0#28 ++ BitVec.ofBool keyclr ++ BitVec.ofBool clr ++ cmd

end Sys2Proof
end

