-- ==== Sys2Proof/WellFormed.lean ====
section
/-! DEFINITION. Which terms of `Instr` stand for a transaction the decoder can answer. Register numbers are constructors,
data words and the fields CLR and KEYCLR are free (`30_encoding.md` R48, R50, R54), so the one check is on
WR_CTRL.ILLEGAL: its word must be illegal, because a legal word belongs to one of the other WR_CTRL rows (R59, R100). -/

namespace Sys2Proof

/-- The instruction is a row of the table with operands that row admits (R48, R59). -/
def Instr.wellFormed (i : Instr) : Bool :=
  match i with
  | .rdKey _ => true
  | .rdData _ => true
  | .rdCtrl => true
  | .rdStatus => true
  | .wrKey _ _ => true
  | .wrData _ _ => true
  | .wrCtrlNop _ _ => true
  | .wrCtrlEnc _ _ => true
  | .wrCtrlDec _ _ => true
  | .wrCtrlIllegal d => !commandLegal d
  | .wrStatus _ => true

end Sys2Proof
end

