-- ==== Sys2Proof/Decode.lean ====
section
/-! DEFINITION. The decoder of transaction words, the encoder, and the opcode table as data. Every 36-bit word is a
transaction (`30_encoding.md` R48, R55), so `decode` is total; a number that does not fit 36 bits is no transaction word
(R47) and `decodeNumber` rejects it by name. -/

namespace Sys2Proof

/-- `TW[31:0]`, the field D (R47). -/
def dataField (tw : TransactionWord) : Word := tw.extractLsb' 0 32

/-- The write to CTRL split by its command word: the rows NOP, ENC and DEC first, WR_CTRL.ILLEGAL last (R50, R51, R59). -/
def decodeCtrl (d : Word) : Instr :=
  if rsvField d ≠ 0#28 then .wrCtrlIllegal d
  else
    match d.getLsbD 1, d.getLsbD 0 with
    | false, false => .wrCtrlNop (clrField d) (keyclrField d)
    | false, true => .wrCtrlEnc (clrField d) (keyclrField d)
    | true, false => .wrCtrlDec (clrField d) (keyclrField d)
    | true, true => .wrCtrlIllegal d

/-- The transaction a word encodes, selected by `TW[35:32]` = {WE, A} (R48); `D` is ignored in a read (R49). -/
def decode (tw : TransactionWord) : Instr :=
  match tw.getLsbD 35, tw.getLsbD 34, tw.getLsbD 33, tw.getLsbD 32 with
  | false, false, a1, a0 => .rdKey (KeyReg.ofBits a1 a0)
  | false, true, false, a0 => .rdData (DataReg.ofBit a0)
  | false, true, true, false => .rdCtrl
  | false, true, true, true => .rdStatus
  | true, false, a1, a0 => .wrKey (KeyReg.ofBits a1 a0) (dataField tw)
  | true, true, false, a0 => .wrData (DataReg.ofBit a0) (dataField tw)
  | true, true, true, false => decodeCtrl (dataField tw)
  | true, true, true, true => .wrStatus (dataField tw)

/-- Why a number is no transaction. -/
inductive DecodeError where
  /-- It does not fit the 36 bits of a transaction word (R47, R56). Safe: nothing is decoded. -/
  | widerThanTransactionWord
  deriving DecidableEq, Repr

/-- Decode a number: a transaction word if it fits 36 bits, else a rejection by name (R47). -/
def decodeNumber (w : Nat) : Except DecodeError Instr :=
  if w < 2 ^ 36 then .ok (decode (BitVec.ofNat 36 w)) else .error .widerThanTransactionWord

/-- The host's question: what the decoder reads from an instruction whose low `nbits` bits are `w` and whose other bits are
zero. The engine has no byte order (R37): the 36 bits are one word, bit 0 of the table is bit 0 of `TW` (R6, R47). -/
def decodeTableWord (nbits w : Nat) : Option Instr :=
  match decodeNumber (w % 2 ^ nbits) with
  | .ok i => some i
  | .error _ => none

/-- `{WE, A, D}` (R47). -/
def transactionWord (we : Bool) (a : BitVec 3) (d : Word) : TransactionWord := BitVec.ofBool we ++ a ++ d

/-- The word address of KEYn, `{0, n}` (R48; `20_memory.md` R36). -/
def KeyReg.addr (n : KeyReg) : BitVec 3 := BitVec.ofNat 3 n.index

/-- The word address of DATAn, `{1, 0, n}` (R48; `20_memory.md` R36). -/
def DataReg.addr (n : DataReg) : BitVec 3 := BitVec.ofNat 3 (4 + n.index)

/-- The canonical transaction word of an instruction; a read has `D = 0` (R47, R48, R49, R50). -/
def encode (i : Instr) : TransactionWord :=
  match i with
  | .rdKey n => transactionWord false n.addr 0#32
  | .rdData n => transactionWord false n.addr 0#32
  | .rdCtrl => transactionWord false 6#3 0#32
  | .rdStatus => transactionWord false 7#3 0#32
  | .wrKey n d => transactionWord true n.addr d
  | .wrData n d => transactionWord true n.addr d
  | .wrCtrlNop clr keyclr => transactionWord true 6#3 (commandWord 0b00#2 clr keyclr)
  | .wrCtrlEnc clr keyclr => transactionWord true 6#3 (commandWord 0b01#2 clr keyclr)
  | .wrCtrlDec clr keyclr => transactionWord true 6#3 (commandWord 0b10#2 clr keyclr)
  | .wrCtrlIllegal d => transactionWord true 6#3 d
  | .wrStatus d => transactionWord true 7#3 d

/-- A row of `opcode_table.json`: a word belongs to it when `word &&& mask = bits`. -/
structure OpcodeRow where
  mnemonic : String
  bits : TransactionWord
  mask : TransactionWord
  deriving DecidableEq, Repr

/-- The table's row for an instruction (`opcode_table.json`, R59). -/
def opcodeRow (i : Instr) : OpcodeRow :=
  match i with
  | .rdKey _ => ⟨"RD_KEY", 0x000000000#36, 0xC00000000#36⟩
  | .rdData _ => ⟨"RD_DATA", 0x400000000#36, 0xE00000000#36⟩
  | .rdCtrl => ⟨"RD_CTRL", 0x600000000#36, 0xF00000000#36⟩
  | .rdStatus => ⟨"RD_STATUS", 0x700000000#36, 0xF00000000#36⟩
  | .wrKey _ _ => ⟨"WR_KEY", 0x800000000#36, 0xC00000000#36⟩
  | .wrData _ _ => ⟨"WR_DATA", 0xC00000000#36, 0xE00000000#36⟩
  | .wrCtrlNop _ _ => ⟨"WR_CTRL.NOP", 0xE00000000#36, 0xFFFFFFFF3#36⟩
  | .wrCtrlEnc _ _ => ⟨"WR_CTRL.ENC", 0xE00000001#36, 0xFFFFFFFF3#36⟩
  | .wrCtrlDec _ _ => ⟨"WR_CTRL.DEC", 0xE00000002#36, 0xFFFFFFFF3#36⟩
  | .wrCtrlIllegal _ => ⟨"WR_CTRL.ILLEGAL", 0xE00000000#36, 0xF00000000#36⟩
  | .wrStatus _ => ⟨"WR_STATUS", 0xF00000000#36, 0xF00000000#36⟩

/-- A transaction word matches a row of the table. -/
def OpcodeRow.holds (r : OpcodeRow) (tw : TransactionWord) : Bool := tw &&& r.mask == r.bits

end Sys2Proof
end

