-- ==== Sys2Proof/Config.lean ====
section
/-! DEFINITION. What the hardware fixes once and for all (`00_scope.md` R2, R5; `10_state.md` R31). The spec leaves no
parameter and no value open ("No parameter is left open", R5), so there is no free value here. -/

namespace Sys2Proof

/-- DELTA, the key schedule constant (R5, R31). -/
def Config.delta : Word := 0x9E3779B9#32

/-- SUM_DEC_INIT, the running sum a decrypt starts from (R5, R86). -/
def Config.sumDecInit : Word := 0xC6EF3720#32

/-- ROUNDS, the number of rounds of one operation (R2, R5). -/
def Config.rounds : Nat := 32

/-- SHIFT_L, the left shift of the round function (R5). -/
def Config.shiftLeft : Nat := 4

/-- SHIFT_R, the logical right shift of the round function (R5). -/
def Config.shiftRight : Nat := 5

end Sys2Proof
end

