-- ==== Sys2Proof/Machine/State.lean ====
section
/-! DEFINITION. The state of the machine as plain data: the engine's registers, which are exactly the tuple of
`10_state.md` R15, and the ports of `20_memory.md` R34. -/

namespace Sys2Proof.Machine

open Sys2Proof

/-- KEY[0..3] (R16). -/
structure Key where
  k0 : Word
  k1 : Word
  k2 : Word
  k3 : Word
  deriving DecidableEq, Repr

/-- A 64-bit block (V0, V1), held in DATA[0..1] (R11, R19). -/
structure Block where
  v0 : Word
  v1 : Word
  deriving DecidableEq, Repr

/-- MODE: 0 is encrypt, 1 is decrypt (R25). -/
inductive Mode where
  | enc | dec
  deriving DecidableEq, Repr

/-- The engine's complete state (R15). KEY_VALID, STATUS and the `done` output are computed from it (R28, R30, R109). -/
structure Engine where
  /-- KEY[0..3] (R16). -/
  key : Key
  /-- DATA[0..1] (R19). -/
  data : Block
  /-- SUM (R23). -/
  sum : Word
  /-- RC (R22). -/
  rc : BitVec 6
  /-- MODE (R25). -/
  mode : Mode
  /-- BUSY (R26). -/
  busy : Bool
  /-- DONE (R27). -/
  done : Bool
  /-- KEY_WR[3:0] (R28). -/
  keyWr : BitVec 4
  /-- ERR_NOKEY (R29). -/
  errNoKey : Bool
  /-- ERR_BUSY (R29). -/
  errBusy : Bool
  /-- ERR_CMD (R29). -/
  errCmd : Bool
  deriving DecidableEq, Repr

/-- What the outside drives on the input ports in one clock cycle (R34). -/
structure BusCycle where
  /-- `rst_n`, active low (R118). -/
  rstN : Bool
  /-- `sel`: true in a cycle that carries a transaction. -/
  sel : Bool
  /-- `we`: true for a write. -/
  we : Bool
  /-- `addr`, the word address (R36). -/
  addr : BitVec 3
  /-- `wdata`. -/
  wdata : Word
  deriving DecidableEq, Repr

/-- The machine: the engine, its read-data output and its pending inputs. -/
structure State where
  /-- The engine's registers (R15). -/
  eng : Engine
  /-- The `rdata` output in the cycle last performed (R34, R41, R74). Log entry 3. -/
  rdata : Word
  /-- The input ports of the coming cycles, the next one first; none left is a host that drives idle cycles. DESIGN
  CHOICE, the model's own field (log entry 2). -/
  bus : List BusCycle
  deriving DecidableEq, Repr

/-- Why the machine stops. There is no reason: "The engine never traps, never stalls the host, never halts and never returns
a bus error" (`60_exceptions.md` R104), so no constructor, and no step faults. Safe: nothing is cut off (log entry 13). -/
inductive Fault where
  deriving DecidableEq, Repr

/-- Why an instruction has no meaning. -/
inductive Refusal where
  /-- Raised by an arm of `exec` for an instruction not modelled yet. Safe. No arm raises it: every row of the table has its
  meaning. -/
  | notModelled (mnemonic : String)
  deriving DecidableEq, Repr

/-- The engine right after reset: every element at the value of R33. -/
def Engine.reset : Engine where
  key := ⟨0#32, 0#32, 0#32, 0#32⟩
  data := ⟨0#32, 0#32⟩
  sum := 0#32
  rc := 0#6
  mode := .enc
  busy := false
  done := false
  keyWr := 0#4
  errNoKey := false
  errBusy := false
  errCmd := false

/-- The machine right after reset (R33, R118): the engine reset, `rdata` at the value it has in a cycle with no read (R33),
no input pending (log entry 2). -/
def State.reset : State where
  eng := Engine.reset
  rdata := 0#32
  bus := []

end Sys2Proof.Machine
end

