-- ==== Sys2Proof/Machine/Flags.lean ====
section
/-! DEFINITION. The STATUS word and the flags in it (`10_state.md` R25 to R30; `30_encoding.md` R53): how each is
computed, set and cleared. -/

namespace Sys2Proof.Machine

open Sys2Proof

/-- `KEY_VALID = KEY_WR[0] AND KEY_WR[1] AND KEY_WR[2] AND KEY_WR[3]` (R28). -/
def Engine.keyValid (g : Engine) : Bool :=
  g.keyWr.getLsbD 0 && g.keyWr.getLsbD 1 && g.keyWr.getLsbD 2 && g.keyWr.getLsbD 3

/-- MODE as the bit STATUS[3] shows: 0 for encrypt, 1 for decrypt (R25). -/
def Mode.bit (m : Mode) : Bool :=
  match m with
  | .enc => false
  | .dec => true

/-- The STATUS word: the 20-bit concatenation of R53, zero extended; the reserved bits read 0 (R30). -/
def Engine.status (g : Engine) : Word :=
  BitVec.setWidth 32
    (g.keyWr ++ 0b00#2 ++ g.rc ++ 0b0#1 ++ BitVec.ofBool g.errCmd ++ BitVec.ofBool g.errBusy
      ++ BitVec.ofBool g.errNoKey ++ BitVec.ofBool g.mode.bit ++ BitVec.ofBool g.keyValid
      ++ BitVec.ofBool g.done ++ BitVec.ofBool g.busy)

/-- The three interface errors (`60_exceptions.md` R105). -/
inductive InterfaceError where
  /-- ErrNoKey: a start with an incomplete key. -/
  | noKey
  /-- ErrBusy: a write while BUSY = 1. -/
  | busy
  /-- ErrCmd: an illegal command word while idle. -/
  | cmd
  deriving DecidableEq, Repr

/-- `raise`: set the sticky bit of the error and nothing else (`00_scope.md` R9; `60_exceptions.md` R104, R105). There is no
trap entry: nothing is saved, no mode changes (R107). -/
def Engine.raise (e : InterfaceError) (g : Engine) : Engine :=
  match e with
  | .noKey => { g with errNoKey := true }
  | .busy => { g with errBusy := true }
  | .cmd => { g with errCmd := true }

/-- CLR: DONE and the three error bits become 0 (`43_control_commands.md` R97). -/
def Engine.clearFlags (g : Engine) : Engine :=
  { g with done := false, errNoKey := false, errBusy := false, errCmd := false }

/-- `KEY_WR[n] <- 1` (R28, R62). -/
def Engine.markKey (n : KeyReg) (g : Engine) : Engine :=
  { g with keyWr := g.keyWr ||| (1#4 <<< n.index) }

/-- The `done` output port equals DONE (`60_exceptions.md` R109). -/
def State.donePin (s : State) : Bool := s.eng.done

end Sys2Proof.Machine
end

