-- ==== Sys2Proof/Machine/Cipher.lean ====
section
/-! DEFINITION. The cipher: the round function, the start of an operation, the engine's own step, one round per clock edge
(`41_encrypt.md`, `42_decrypt.md`), and encrypt and decrypt as whole functions. -/

namespace Sys2Proof.Machine

open Sys2Proof

/-- The round function `F(x, s, ka, kb)` (R75). -/
def roundF (x s ka kb : Word) : Word :=
  ((x <<< Config.shiftLeft) + ka) ^^^ (x + s) ^^^ ((x >>> Config.shiftRight) + kb)

/-- One encrypt update of both halves with the sum `s`: V0 from the old V1, then V1 from the new V0 (R77; `E_s` of R92). -/
def encUpdate (k : Key) (s : Word) (b : Block) : Block :=
  let v0 := b.v0 + roundF b.v1 s k.k0 k.k1
  let v1 := b.v1 + roundF v0 s k.k2 k.k3
  ⟨v0, v1⟩

/-- One decrypt update of both halves with the sum `s`: V1 from the old V0, then V0 from the new V1 (R87; `D_s` of R92). -/
def decUpdate (k : Key) (s : Word) (b : Block) : Block :=
  let v1 := b.v1 - roundF b.v0 s k.k2 k.k3
  let v0 := b.v0 - roundF v1 s k.k0 k.k1
  ⟨v0, v1⟩

/-- The sum an operation starts from (R76, R86). -/
def Mode.initSum (m : Mode) : Word :=
  match m with
  | .enc => 0#32
  | .dec => Config.sumDecInit

/-- An accepted start: BUSY, MODE, RC and SUM are written, KEY and DATA stay (R76, R86). -/
def Engine.start (m : Mode) (g : Engine) : Engine :=
  { g with busy := true, mode := m, rc := 0#6, sum := m.initSum }

/-- The completion check, on the RC of the start of the cycle: whether the round just performed was the last (R78;
`90_conflicts.md` C7). -/
def Engine.completes (g : Engine) : Bool := g.rc + 1#6 == BitVec.ofNat 6 Config.rounds

/-- The completion's effect: BUSY falls and DONE rises in the last round, else both stay (R78). -/
def Engine.complete (start g : Engine) : Engine :=
  if start.completes then { g with busy := false, done := true } else g

/-- The encrypt round: the sum is incremented first (R77). -/
def Engine.encRound (g : Engine) : Engine :=
  let s := g.sum + Config.delta
  Engine.complete g { g with sum := s, data := encUpdate g.key s g.data, rc := g.rc + 1#6 }

/-- The decrypt round: the sum is decremented last (R87). -/
def Engine.decRound (g : Engine) : Engine :=
  let s := g.sum
  Engine.complete g { g with data := decUpdate g.key s g.data, sum := s - Config.delta, rc := g.rc + 1#6 }

/-- The round MODE selects (R25). -/
def Engine.round (g : Engine) : Engine :=
  match g.mode with
  | .enc => g.encRound
  | .dec => g.decRound

/-- `EngineStep`: a round when BUSY = 1, nothing when BUSY = 0 (`20_memory.md` R41; `40_register_access.md` R74). -/
def Engine.engineStep (g : Engine) : Engine := if g.busy then g.round else g

/-- What the engine commits at the edge of a cycle that began in `start`, over what the host's transaction left in `host`.
In a cycle that starts busy the engine writes DATA, SUM, RC, BUSY and DONE, all computed from `start`, and no other
element; in an idle cycle it writes nothing (`20_memory.md` R41, R43; R74). -/
def Engine.commitRound (start host : Engine) : Engine :=
  if start.busy then
    { host with
      data := start.round.data, sum := start.round.sum, rc := start.round.rc,
      busy := start.round.busy, done := start.round.done }
  else host

/-- The loop of `TEA_Enc`: `n` more rounds from the running sum `sum` (R80). -/
def teaEncLoop (k : Key) : Nat → Word → Block → Block
  | 0, _, b => b
  | n + 1, sum, b => teaEncLoop k n (sum + Config.delta) (encUpdate k (sum + Config.delta) b)

/-- `TEA_Enc`, the whole encrypt (R80). -/
def teaEnc (k : Key) (b : Block) : Block := teaEncLoop k Config.rounds 0#32 b

/-- The loop of `TEA_Dec`: `n` more rounds from the running sum `sum` (R89). -/
def teaDecLoop (k : Key) : Nat → Word → Block → Block
  | 0, _, b => b
  | n + 1, sum, b => teaDecLoop k n (sum - Config.delta) (decUpdate k sum b)

/-- `TEA_Dec`, the whole decrypt (R89). -/
def teaDec (k : Key) (b : Block) : Block := teaDecLoop k Config.rounds Config.sumDecInit b

end Sys2Proof.Machine
end

