-- ==== Sys2Proof/Machine/Ops.lean ====
section
/-! DEFINITION. The named operations over the registers and the ports: reading and writing KEY and DATA, the write gate,
the steps of a command word, a read transaction and a write transaction, the pending inputs, and what one clock edge
commits. Raising an error, this hardware's only exception, is `Engine.raise` in `Flags.lean`; there is no return from it
(`60_exceptions.md` R107, R108). -/

namespace Sys2Proof.Machine

open Sys2Proof

/-- KEY[n] (R16). Only the rounds read it: the bus never does (R63). -/
def Key.get (k : Key) (n : KeyReg) : Word :=
  match n with
  | .k0 => k.k0
  | .k1 => k.k1
  | .k2 => k.k2
  | .k3 => k.k3

/-- KEY with KEY[n] replaced; the four words are distinct storage (R20). -/
def Key.set (k : Key) (n : KeyReg) (d : Word) : Key :=
  match n with
  | .k0 => { k with k0 := d }
  | .k1 => { k with k1 := d }
  | .k2 => { k with k2 := d }
  | .k3 => { k with k3 := d }

/-- DATA[n] (R19). -/
def Block.get (b : Block) (n : DataReg) : Word :=
  match n with
  | .v0 => b.v0
  | .v1 => b.v1

/-- DATA with DATA[n] replaced; the two words are distinct storage (R20). -/
def Block.set (b : Block) (n : DataReg) (d : Word) : Block :=
  match n with
  | .v0 => { b with v0 := d }
  | .v1 => { b with v1 := d }

/-- `KEY[n] <- d; KEY_WR[n] <- 1` (R62). -/
def Engine.writeKey (n : KeyReg) (d : Word) (g : Engine) : Engine :=
  Engine.markKey n { g with key := g.key.set n d }

/-- `DATA[n] <- d` (R64). -/
def Engine.writeData (n : DataReg) (d : Word) (g : Engine) : Engine :=
  { g with data := g.data.set n d }

/-- KEYCLR: the key words become 0 and KEY_WR becomes 0b0000 (`43_control_commands.md` R98). -/
def Engine.clearKey (g : Engine) : Engine :=
  { g with key := ⟨0#32, 0#32, 0#32, 0#32⟩, keyWr := 0#4 }

/-- The first two steps of a legal command word, CLR and then KEYCLR, each when its bit is 1 (R50, R66). -/
def Engine.prepare (clr keyclr : Bool) (g : Engine) : Engine :=
  let g := if clr then g.clearFlags else g
  if keyclr then g.clearKey else g

/-- The last step of an ENC or DEC word: DONE is cleared, then the operation starts if all four key words have been written,
else ErrNoKey is raised (R66, R76, R86). -/
def Engine.tryStart (m : Mode) (g : Engine) : Engine :=
  let g := { g with done := false }
  if g.keyWr = 0b1111#4 then g.start m else g.raise .noKey

/-- The write gate: while BUSY = 1 a write raises ErrBusy and has no other effect (R61). -/
def Engine.writeGate (effect : Engine → Engine) (g : Engine) : Engine :=
  if g.busy then g.raise .busy else effect g

/-- A read transaction: `rdata` takes the value and no state changes (R40, R74). -/
def State.respond (v : Word) (s : State) : Host.Outcome State Fault Refusal :=
  .next { s with rdata := v }

/-- A write transaction: the write gate, then the transaction's own effect; `rdata` is 0 (R61, R74). -/
def State.write (effect : Engine → Engine) (s : State) : Host.Outcome State Fault Refusal :=
  .next { s with eng := s.eng.writeGate effect, rdata := 0#32 }

/-- An idle cycle on the input ports: no reset, `sel = 0` (R12, R70). -/
def BusCycle.idle : BusCycle := ⟨true, false, false, 0#3, 0#32⟩

/-- A cycle on the input ports that carries the transaction `tw`, without reset (R47). -/
def BusCycle.transact (tw : TransactionWord) : BusCycle :=
  ⟨true, true, tw.getLsbD 35, tw.extractLsb' 32 3, tw.extractLsb' 0 32⟩

/-- The transaction word on the ports `we`, `addr` and `wdata` (R47). -/
def BusCycle.word (c : BusCycle) : TransactionWord := transactionWord c.we c.addr c.wdata

/-- The input ports in the coming cycle; an idle cycle when the host has nothing pending (log entry 2). -/
def State.ports (s : State) : BusCycle := s.bus.headD BusCycle.idle

/-- The inputs of the coming cycle taken off the pending ones. -/
def State.advanceBus (s : State) : State := { s with bus := s.bus.tail }

/-- The transaction `tw` driven in the very next cycle, before all pending inputs. -/
def State.present (tw : TransactionWord) (s : State) : State :=
  { s with bus := BusCycle.transact tw :: s.bus }

/-- The closing edge of a cycle that began in `start`, over the state `s` the host's part of it leaves. With `rst_n = 0`
every element takes its reset value, the transaction has no effect and no round is performed (R118); else the engine's
round is merged in (R41, R74). -/
def State.closeEdge (rstN : Bool) (start : Engine) (s : State) : State :=
  if rstN then { s with eng := start.commitRound s.eng } else { s with eng := Engine.reset }

end Sys2Proof.Machine
end

