-- ==== Sys2Proof/Machine/Control.lean ====
section
/-! DEFINITION. The meanings of the write to CTRL, one per row of the table (R66; `41_encrypt.md` R76, `42_decrypt.md` R86,
`43_control_commands.md` R97 to R101). A legal word acts in the order CLR, KEYCLR, CMD, all at one edge. -/

namespace Sys2Proof.Machine

open Sys2Proof

/-- WR_CTRL.NOP: CLR and KEYCLR only (R99). -/
def execWrCtrlNop (clr keyclr : Bool) (s : State) : Host.Outcome State Fault Refusal :=
  s.write (fun g => g.prepare clr keyclr)

/-- WR_CTRL.ENC: CLR, KEYCLR, then the start of an encrypt (R76). -/
def execWrCtrlEnc (clr keyclr : Bool) (s : State) : Host.Outcome State Fault Refusal :=
  s.write (fun g => (g.prepare clr keyclr).tryStart .enc)

/-- WR_CTRL.DEC: CLR, KEYCLR, then the start of a decrypt (R86). -/
def execWrCtrlDec (clr keyclr : Bool) (s : State) : Host.Outcome State Fault Refusal :=
  s.write (fun g => (g.prepare clr keyclr).tryStart .dec)

/-- WR_CTRL.ILLEGAL: ErrCmd, and no field of the word takes effect (R100). -/
def execWrCtrlIllegal (_d : Word) (s : State) : Host.Outcome State Fault Refusal :=
  s.write (Engine.raise .cmd)

/-- R66's pseudocode on a command word, line by line with its local copies, after the write gate. The machine does not call
it: the four meanings above are to agree with it. -/
def Engine.ctrlPseudocode (d : Word) (g : Engine) : Engine :=
  if rsvField d ≠ 0#28 ∨ cmdField d = 0b11#2 then { g with errCmd := true }
  else
    let c := clrField d
    let done := if c then false else g.done
    let en := if c then false else g.errNoKey
    let eb := if c then false else g.errBusy
    let ec := if c then false else g.errCmd
    let k := keyclrField d
    let key := if k then ⟨0#32, 0#32, 0#32, 0#32⟩ else g.key
    let kw := if k then 0b0000#4 else g.keyWr
    let kept : Engine :=
      { g with done := done, errNoKey := en, errBusy := eb, errCmd := ec, keyWr := kw, key := key }
    if cmdField d = 0b01#2 ∨ cmdField d = 0b10#2 then
      if kw ≠ 0b1111#4 then { kept with done := false, errNoKey := true }
      else if cmdField d = 0b01#2 then
        { kept with done := false, busy := true, mode := .enc, rc := 0#6, sum := 0x00000000#32 }
      else
        { kept with done := false, busy := true, mode := .dec, rc := 0#6, sum := 0xC6EF3720#32 }
    else kept

end Sys2Proof.Machine
end

