-- ==== Sys2Proof/Machine/RegisterAccess.lean ====
section
/-! DEFINITION. The meanings of the register access transactions (`40_register_access.md`), all but the write to CTRL. Each
is the host's part of one cycle, `HostStep` (R74): the engine's round of the same cycle is merged in by the step. -/

namespace Sys2Proof.Machine

open Sys2Proof

/-- RD_KEYn: the key is never readable, `rdata := 0` (R63). -/
def execRdKey (_n : KeyReg) (s : State) : Host.Outcome State Fault Refusal := s.respond 0#32

/-- RD_DATAn: `rdata := DATA[n]` (R65). -/
def execRdData (n : DataReg) (s : State) : Host.Outcome State Fault Refusal := s.respond (s.eng.data.get n)

/-- RD_CTRL: CTRL stores nothing, `rdata := 0` (R67). -/
def execRdCtrl (s : State) : Host.Outcome State Fault Refusal := s.respond 0#32

/-- RD_STATUS: `rdata := STATUS` (R69). -/
def execRdStatus (s : State) : Host.Outcome State Fault Refusal := s.respond s.eng.status

/-- WR_KEYn (R62). -/
def execWrKey (n : KeyReg) (d : Word) (s : State) : Host.Outcome State Fault Refusal :=
  s.write (Engine.writeKey n d)

/-- WR_DATAn (R64). -/
def execWrData (n : DataReg) (d : Word) (s : State) : Host.Outcome State Fault Refusal :=
  s.write (Engine.writeData n d)

/-- WR_STATUS: dropped; no effect when idle (R68). -/
def execWrStatus (_d : Word) (s : State) : Host.Outcome State Fault Refusal := s.write id

end Sys2Proof.Machine
end

