-- ==== Sys2Proof/Machine/Dispatch.lean ====
section
/-! DEFINITION. What one transaction does to the state it finds: one arm per row of the opcode table. It is `HostStep` of
`40_register_access.md` R74, with `rdata` in the state. -/

namespace Sys2Proof.Machine

open Sys2Proof

def exec (i : Instr) (s : State) : Host.Outcome State Fault Refusal :=
  match i with
  | .rdKey n => Sys2Proof.Machine.execRdKey n s
  | .rdData n => Sys2Proof.Machine.execRdData n s
  | .rdCtrl => Sys2Proof.Machine.execRdCtrl s
  | .rdStatus => Sys2Proof.Machine.execRdStatus s
  | .wrKey n d => Sys2Proof.Machine.execWrKey n d s
  | .wrData n d => Sys2Proof.Machine.execWrData n d s
  | .wrCtrlNop clr keyclr => Sys2Proof.Machine.execWrCtrlNop clr keyclr s
  | .wrCtrlEnc clr keyclr => Sys2Proof.Machine.execWrCtrlEnc clr keyclr s
  | .wrCtrlDec clr keyclr => Sys2Proof.Machine.execWrCtrlDec clr keyclr s
  | .wrCtrlIllegal d => Sys2Proof.Machine.execWrCtrlIllegal d s
  | .wrStatus d => Sys2Proof.Machine.execWrStatus d s

end Sys2Proof.Machine
end

