-- ==== Sys2Proof/Machine/Cycle.lean ====
section
/-! DEFINITION. One clock cycle (`20_memory.md` R41; `40_register_access.md` R70, R74; `70_reset_and_hazards.md` R118): the
host's transaction or an idle cycle, then what the closing edge commits. -/

namespace Sys2Proof.Machine

open Sys2Proof

/-- The host's part of a cycle with the input ports `c`: the transaction on them if `sel = 1`, else nothing but `rdata = 0`
(R41, R70). -/
def hostPart (c : BusCycle) (s : State) : Host.Outcome State Fault Refusal :=
  if c.sel then exec (decode c.word) s else s.respond 0#32

/-- One clock cycle: the host's part on the state at its start, then the closing edge (R41, R74, R118). In a reset cycle a
read still answers from the state at the start of the cycle (R118, log entry 6). -/
def clockCycle (s : State) : Host.Outcome State Fault Refusal :=
  match hostPart s.ports s.advanceBus with
  | .next t => .next (State.closeEdge s.ports.rstN s.eng t)
  | .fault r => .fault r
  | .refused r => .refused r

end Sys2Proof.Machine
end

