-- ==== Sys2Proof/Machine/Step.lean ====
section
/-! DEFINITION. One step of the machine is one clock cycle, ending at a rising edge of `clk` (`20_memory.md` R34, R41). -/

namespace Sys2Proof.Machine

open Sys2Proof

/-- One clock cycle. -/
def step (s : State) : Host.Outcome State Fault Refusal := clockCycle s

/-- The instruction whose low `nbits` bits are `w` driven on the bus in the very next cycle. The engine fetches nothing
(`10_state.md` R21): the host's driving the ports stands for the fetch (log entry 4). -/
def State.withFetchWord (s : State) (nbits w : Nat) : State := s.present (BitVec.ofNat 36 (w % 2 ^ nbits))

end Sys2Proof.Machine
end

