-- ==== Sys2Proof/Safety.lean ====
section
/-! DEFINITION. The terms claims use: the invariant of the engine, what the bus can observe, and when a run of cycles is
free of resets. The engine has no stop to be safe from (`60_exceptions.md` R104): a run is good when its states meet the
invariant. -/

namespace Sys2Proof

/-- The instruction is a write, `we = 1` (R48). -/
def Instr.isWrite (i : Instr) : Bool :=
  match i with
  | .rdKey _ => false
  | .rdData _ => false
  | .rdCtrl => false
  | .rdStatus => false
  | .wrKey _ _ => true
  | .wrData _ _ => true
  | .wrCtrlNop _ _ => true
  | .wrCtrlEnc _ _ => true
  | .wrCtrlDec _ _ => true
  | .wrCtrlIllegal _ => true
  | .wrStatus _ => true

/-- The instruction is a legal command word with CLR = 1 (R97). -/
def Instr.hasClr (i : Instr) : Bool :=
  match i with
  | .rdKey _ => false
  | .rdData _ => false
  | .rdCtrl => false
  | .rdStatus => false
  | .wrKey _ _ => false
  | .wrData _ _ => false
  | .wrCtrlNop clr _ => clr
  | .wrCtrlEnc clr _ => clr
  | .wrCtrlDec clr _ => clr
  | .wrCtrlIllegal _ => false
  | .wrStatus _ => false

/-- The instruction is a legal command word with KEYCLR = 1 (R98). -/
def Instr.hasKeyclr (i : Instr) : Bool :=
  match i with
  | .rdKey _ => false
  | .rdData _ => false
  | .rdCtrl => false
  | .rdStatus => false
  | .wrKey _ _ => false
  | .wrData _ _ => false
  | .wrCtrlNop _ keyclr => keyclr
  | .wrCtrlEnc _ keyclr => keyclr
  | .wrCtrlDec _ keyclr => keyclr
  | .wrCtrlIllegal _ => false
  | .wrStatus _ => false

/-- The instruction is a legal ENC or DEC command word (R51). -/
def Instr.isStart (i : Instr) : Bool :=
  match i with
  | .rdKey _ => false
  | .rdData _ => false
  | .rdCtrl => false
  | .rdStatus => false
  | .wrKey _ _ => false
  | .wrData _ _ => false
  | .wrCtrlNop _ _ => false
  | .wrCtrlEnc _ _ => true
  | .wrCtrlDec _ _ => true
  | .wrCtrlIllegal _ => false
  | .wrStatus _ => false

end Sys2Proof

namespace Sys2Proof.Machine

open Sys2Proof

/-- The value a read of word address `a` returns, the read column of the register map (`20_memory.md` R36). -/
def Engine.mapRead (g : Engine) (a : BitVec 3) : Word :=
  if a = 4#3 then g.data.v0
  else if a = 5#3 then g.data.v1
  else if a = 7#3 then g.status
  else 0#32

/-- The running sum that belongs to `r` rounds done in mode `m` (`10_state.md` R24): `r * DELTA` when encrypting,
`(32 - r) * DELTA` when decrypting. -/
def scheduledSum (m : Mode) (r : Nat) : Word :=
  match m with
  | .enc => BitVec.ofNat 32 r * Config.delta
  | .dec => BitVec.ofNat 32 (32 - r) * Config.delta

/-- The command word that starts an operation of mode `m`, with KEYCLR = 0 (R51). -/
def Mode.startWord (m : Mode) (clr : Bool) : Instr :=
  match m with
  | .enc => .wrCtrlEnc clr false
  | .dec => .wrCtrlDec clr false

/-- The block after the first `r` rounds of an operation of mode `m` on the block `b` (R80, R89). -/
def Mode.afterRounds (m : Mode) (k : Key) (r : Nat) (b : Block) : Block :=
  match m with
  | .enc => teaEncLoop k r 0#32 b
  | .dec => teaDecLoop k r Config.sumDecInit b

/-- What holds of the engine between cycles, in every state a run from reset reaches. -/
structure Engine.Inv (g : Engine) : Prop where
  /-- RC counts 0 to 32 rounds (R22). -/
  rcRange : g.rc.toNat ≤ 32
  /-- While busy the operation is not complete (R22, R26). -/
  busyRunning : g.busy = true → g.rc.toNat < 32
  /-- While idle no operation is half done: none was started since reset, or the last one ran to its end (R22, R78). -/
  idleWhole : g.busy = false → g.rc = 32#6 ∨ g.rc = 0#6 ∧ g.mode = .enc ∧ g.done = false
  /-- SUM is the one that RC and MODE determine (R24). -/
  sumScheduled : g.sum = scheduledSum g.mode g.rc.toNat
  /-- An operation runs under a whole key only (R28). -/
  busyKey : g.busy = true → g.keyWr = 0b1111#4
  /-- DONE is shown only when no operation is in progress (R27). -/
  doneIdle : g.done = true → g.busy = false
  /-- A key word that has not been written since reset or KEYCLR is zero (R28, R33, R98). -/
  unwrittenZero : ∀ n : KeyReg, g.keyWr.getLsbD n.index = false → g.key.get n = 0#32

/-- The invariant of the machine: that of its engine. The inputs are unconstrained. -/
def State.Inv (s : State) : Prop := s.eng.Inv

/-- The next `n` input cycles hold no reset; a cycle the host has not given yet is idle (log entry 2). -/
def noReset (n : Nat) (bus : List BusCycle) : Prop := ∀ c ∈ bus.take n, c.rstN = true

/-- The next cycle is no reset and carries the transaction `i`. -/
def State.carries (s : State) (i : Instr) : Prop :=
  s.ports.rstN = true ∧ s.ports.sel = true ∧ decode s.ports.word = i

/-- Two engines that a host cannot tell apart while no operation runs: all but the key words is the same. -/
def Engine.sameButKey (g h : Engine) : Prop := { g with key := h.key } = h

/-- Two engines that differ in SUM at most. -/
def Engine.sameButSum (g h : Engine) : Prop := { g with sum := h.sum } = h

end Sys2Proof.Machine
end

