-- ==== Sys2Proof/Certificates/Slice0/Obligations.lean ====
section
/-! DEFINITION. The statements for the provers. Each docstring names the rule of spec/ it formalises, or, for a statement
that rests on an inference the spec marks as its own ("derived"), the spec's sentence. `exec` is the host's part of a cycle,
`step` one whole clock cycle. -/

open Sys2Proof Sys2Proof.Machine

/-! ### Encoding (30_encoding.md) -/

/-- Decoding the encoded instruction gives it back, every operand at every value (30_encoding.md, Formats). -/
def Obligations.DecodeEncodeRoundTrip : Prop :=
  ∀ i : Instr, i.wellFormed = true → decode (encode i) = i

/-- Encoding the decoded instruction gives the word back: a write bit for bit, a read with its `D`, which carries no
meaning, replaced by zeros (30_encoding.md, Formats). -/
def Obligations.EncodeDecodeIsCanonical : Prop :=
  ∀ tw : TransactionWord,
    encode (decode tw) = if tw.getLsbD 35 then tw else tw &&& 0xF00000000#36

/-- Every 36-bit word decodes to a well-formed instruction: there is no illegal address and no undecodable word
(30_encoding.md, Reserved, illegal and hint encodings). -/
def Obligations.EveryWordDecodesWellFormed : Prop :=
  ∀ tw : TransactionWord, (decode tw).wellFormed = true

/-- A word matches the table row of the instruction it decodes to, and any other row it matches is WR_CTRL.ILLEGAL, the row
decoded last (30_encoding.md, Opcode map in prose). -/
def Obligations.DecodeAgreesWithOpcodeTable : Prop :=
  ∀ tw : TransactionWord,
    (opcodeRow (decode tw)).holds tw = true ∧
    ∀ i : Instr, (opcodeRow i).holds tw = true →
      opcodeRow i = opcodeRow (decode tw) ∨ (opcodeRow i).mnemonic = "WR_CTRL.ILLEGAL"

/-- R49: a read decodes to the same transaction for every `D`, and its canonical spelling has `D = 0`. -/
def Obligations.ReadIgnoresDataField : Prop :=
  (∀ (a : BitVec 3) (d d' : Word),
    decode (transactionWord false a d) = decode (transactionWord false a d')) ∧
  (∀ i : Instr, i.isWrite = false → dataField (encode i) = 0#32)

/-- Words the spec writes out, decoded (95_test_vectors.md, Programs and V-BUS). -/
def Obligations.SpecProgramWordsDecode : Prop :=
  decode 0x000000000#36 = .rdKey .k0 ∧ decode 0x200000000#36 = .rdKey .k2 ∧
  decode 0x500000000#36 = .rdData .v1 ∧ decode 0x600000000#36 = .rdCtrl ∧
  decode 0x7FFFFFFFF#36 = .rdStatus ∧ decode 0xADEADBEEF#36 = .wrKey .k2 0xDEADBEEF#32 ∧
  decode 0xD04050607#36 = .wrData .v1 0x04050607#32 ∧ decode 0xE00000008#36 = .wrCtrlNop false true ∧
  decode 0xE00000005#36 = .wrCtrlEnc true false ∧ decode 0xE00000002#36 = .wrCtrlDec false false ∧
  decode 0xE00000003#36 = .wrCtrlIllegal 0x00000003#32 ∧ decode 0xFFFFFFFFF#36 = .wrStatus 0xFFFFFFFF#32

/-- A command word is legal exactly when it is one of the twelve of the list (30_encoding.md, Formats, "The legal command
words are exactly these 12 values"). -/
def Obligations.LegalCommandWordsAreTwelve : Prop :=
  ∀ d : Word, commandLegal d = true ↔
    d ∈ [0x0#32, 0x1#32, 0x2#32, 0x4#32, 0x5#32, 0x6#32, 0x8#32, 0x9#32, 0xA#32, 0xC#32, 0xD#32, 0xE#32]

/-! ### Register access (40_register_access.md) -/

/-- R63: RD_KEYn answers 0 in every state, busy or not, and changes nothing; its word is `{0, 0n, D}` for any `D`. -/
def Obligations.RdKeyReturnsZero : Prop :=
  ∀ (n : KeyReg) (d : Word) (s : State),
    decode (transactionWord false n.addr d) = .rdKey n ∧
    exec (.rdKey n) s = .next { s with rdata := 0x00000000#32 }

/-- R65: RD_DATAn answers DATA[n] and changes nothing; while busy the value is the one before the round of the same cycle;
after reset it is 0. -/
def Obligations.RdDataReturnsBlockWord : Prop :=
  (∀ (n : DataReg) (d : Word) (s : State),
    decode (transactionWord false n.addr d) = .rdData n ∧
    exec (.rdData n) s = .next { s with rdata := s.eng.data.get n }) ∧
  (∀ (n : DataReg) (s : State), s.carries (.rdData n) →
    ∃ t, step s = .next t ∧ t.rdata = s.eng.data.get n) ∧
  (∀ n : DataReg, State.reset.eng.data.get n = 0x00000000#32)

/-- R67: RD_CTRL answers 0 in every state and changes nothing. -/
def Obligations.RdCtrlReturnsZero : Prop :=
  ∀ (d : Word) (s : State),
    decode (transactionWord false 6#3 d) = .rdCtrl ∧
    exec .rdCtrl s = .next { s with rdata := 0x00000000#32 }

/-- RD_STATUS answers the STATUS word in every state and clears nothing (40_register_access.md, Status register). -/
def Obligations.RdStatusReturnsStatus : Prop :=
  ∀ (d : Word) (s : State),
    decode (transactionWord false 7#3 d) = .rdStatus ∧
    exec .rdStatus s = .next { s with rdata := s.eng.status }

/-- R53: the STATUS word field by field; the bits outside the fields, 31:20 among them, are zero. -/
def Obligations.StatusWordFields : Prop :=
  ∀ g : Engine,
    g.status.extractLsb' 16 4 = g.keyWr ∧ g.status.extractLsb' 14 2 = 0b00#2 ∧
    g.status.extractLsb' 8 6 = g.rc ∧ g.status.getLsbD 7 = false ∧
    g.status.getLsbD 6 = g.errCmd ∧ g.status.getLsbD 5 = g.errBusy ∧ g.status.getLsbD 4 = g.errNoKey ∧
    g.status.getLsbD 3 = (g.mode == .dec) ∧
    g.status.getLsbD 2 = (g.keyWr.getLsbD 0 && g.keyWr.getLsbD 1 && g.keyWr.getLsbD 2 && g.keyWr.getLsbD 3) ∧
    g.status.getLsbD 1 = g.done ∧ g.status.getLsbD 0 = g.busy ∧
    g.status.extractLsb' 20 12 = 0#12

/-- Every read answers the read column of the register map and leaves the engine and the pending inputs as they were
(20_memory.md, Address space; Access width, atomicity and side effects). The frame of the four reads. -/
def Obligations.ReadsAnswerMapAndChangeNothing : Prop :=
  ∀ (a : BitVec 3) (d : Word) (s : State),
    ∃ t, exec (decode (transactionWord false a d)) s = .next t ∧
      t.rdata = s.eng.mapRead a ∧ t.eng = s.eng ∧ t.bus = s.bus

/-- R62: WR_KEYn while idle stores the word and sets KEY_WR[n], and touches nothing else; while busy it is dropped. Every
value is accepted; its word is `{1, 0n, d}`. -/
def Obligations.WrKeyStoresAndMarks : Prop :=
  ∀ (n : KeyReg) (d : Word) (s : State),
    decode (transactionWord true n.addr d) = .wrKey n d ∧
    (s.eng.busy = false → exec (.wrKey n d) s = .next { s with
      rdata := 0#32
      eng := { s.eng with key := s.eng.key.set n d, keyWr := s.eng.keyWr ||| (1#4 <<< n.index) } }) ∧
    (s.eng.busy = true → exec (.wrKey n d) s = .next { s with
      rdata := 0#32, eng := { s.eng with errBusy := true } })

/-- R64: WR_DATAn while idle stores the word and touches nothing else; while busy it is dropped. -/
def Obligations.WrDataStores : Prop :=
  ∀ (n : DataReg) (d : Word) (s : State),
    decode (transactionWord true n.addr d) = .wrData n d ∧
    (s.eng.busy = false → exec (.wrData n d) s = .next { s with
      rdata := 0#32, eng := { s.eng with data := s.eng.data.set n d } }) ∧
    (s.eng.busy = true → exec (.wrData n d) s = .next { s with
      rdata := 0#32, eng := { s.eng with errBusy := true } })

/-- R68: WR_STATUS while idle changes nothing and is no error, whatever it writes; while busy it raises ErrBusy. -/
def Obligations.WrStatusHasNoEffect : Prop :=
  ∀ (d : Word) (s : State),
    decode (transactionWord true 7#3 d) = .wrStatus d ∧
    (s.eng.busy = false → exec (.wrStatus d) s = .next { s with rdata := 0#32 }) ∧
    (s.eng.busy = true → exec (.wrStatus d) s = .next { s with
      rdata := 0#32, eng := { s.eng with errBusy := true } })

/-- The six data registers are distinct storage: a write is read back, and no other register changes (10_state.md, Key and
block registers). -/
def Obligations.DataRegistersAreDistinct : Prop :=
  (∀ (k : Key) (n m : KeyReg) (d : Word), (k.set n d).get m = if m = n then d else k.get m) ∧
  (∀ (b : Block) (n m : DataReg) (d : Word), (b.set n d).get m = if m = n then d else b.get m)

/-- The frame of WR_KEYn, idle or busy: every other key word and KEY_WR bit, DATA, SUM, RC, MODE, BUSY, DONE, ERR_NOKEY,
ERR_CMD and the pending inputs; ERR_BUSY while idle. -/
def Obligations.WrKeyFrame : Prop :=
  ∀ (n : KeyReg) (d : Word) (s t : State), exec (.wrKey n d) s = .next t →
    (∀ m : KeyReg, m ≠ n → t.eng.key.get m = s.eng.key.get m) ∧
    (∀ m : KeyReg, m ≠ n → t.eng.keyWr.getLsbD m.index = s.eng.keyWr.getLsbD m.index) ∧
    t.eng.data = s.eng.data ∧ t.eng.sum = s.eng.sum ∧ t.eng.rc = s.eng.rc ∧ t.eng.mode = s.eng.mode ∧
    t.eng.busy = s.eng.busy ∧ t.eng.done = s.eng.done ∧ t.eng.errNoKey = s.eng.errNoKey ∧
    t.eng.errCmd = s.eng.errCmd ∧ (s.eng.busy = false → t.eng.errBusy = s.eng.errBusy) ∧ t.bus = s.bus

/-- The frame of WR_DATAn, idle or busy: the other block word, the key, KEY_WR, SUM, RC, MODE, BUSY, DONE, ERR_NOKEY,
ERR_CMD and the pending inputs; ERR_BUSY while idle. -/
def Obligations.WrDataFrame : Prop :=
  ∀ (n : DataReg) (d : Word) (s t : State), exec (.wrData n d) s = .next t →
    (∀ m : DataReg, m ≠ n → t.eng.data.get m = s.eng.data.get m) ∧
    t.eng.key = s.eng.key ∧ t.eng.keyWr = s.eng.keyWr ∧ t.eng.sum = s.eng.sum ∧ t.eng.rc = s.eng.rc ∧
    t.eng.mode = s.eng.mode ∧ t.eng.busy = s.eng.busy ∧ t.eng.done = s.eng.done ∧
    t.eng.errNoKey = s.eng.errNoKey ∧ t.eng.errCmd = s.eng.errCmd ∧
    (s.eng.busy = false → t.eng.errBusy = s.eng.errBusy) ∧ t.bus = s.bus

/-- R61: while busy every write sets ERR_BUSY and has no other effect, an illegal command word and one with CLR included;
reads are not gated: they answer and change nothing, busy or not. -/
def Obligations.BusyWriteIsDropped : Prop :=
  (∀ (i : Instr) (s : State), i.isWrite = true → s.eng.busy = true →
    exec i s = .next { s with rdata := 0#32, eng := { s.eng with errBusy := true } }) ∧
  (∀ (i : Instr) (s : State), i.isWrite = false →
    ∃ v, exec i s = .next { s with rdata := v })

/-! ### Command words (41, 42, 43; 40_register_access.md R66) -/

/-- R66: a write to CTRL does what the rule's pseudocode says for every one of the 2^32 command words, after the write
gate. It equates the four table rows with the one pseudocode. -/
def Obligations.CtrlWriteFollowsPseudocode : Prop :=
  ∀ (d : Word) (s : State),
    exec (decode (transactionWord true 6#3 d)) s = .next { s with
      rdata := 0#32
      eng := if s.eng.busy then { s.eng with errBusy := true } else s.eng.ctrlPseudocode d }

/-- R99: a NOP word while idle performs its CLR and KEYCLR and nothing more; the word 0x00000000 changes no state at all;
while busy it is dropped with ERR_BUSY. The completion and the result of WR_CTRL.NOP. -/
def Obligations.NopWordPerformsOnlyItsFields : Prop :=
  ∀ (clr keyclr : Bool) (s : State),
    decode (transactionWord true 6#3 (commandWord 0b00#2 clr keyclr)) = .wrCtrlNop clr keyclr ∧
    (s.eng.busy = false → exec (.wrCtrlNop clr keyclr) s = .next { s with
      rdata := 0#32
      eng := { s.eng with
        done := s.eng.done && !clr
        errNoKey := s.eng.errNoKey && !clr
        errBusy := s.eng.errBusy && !clr
        errCmd := s.eng.errCmd && !clr
        key := if keyclr then ⟨0#32, 0#32, 0#32, 0#32⟩ else s.eng.key
        keyWr := if keyclr then 0b0000#4 else s.eng.keyWr } }) ∧
    (s.eng.busy = false → exec (decode 0xE00000000#36) s = .next { s with rdata := 0#32 }) ∧
    (s.eng.busy = true → exec (.wrCtrlNop clr keyclr) s = .next { s with
      rdata := 0#32, eng := { s.eng with errBusy := true } })

/-- An ENC word with KEYCLR = 0 while idle and with all four key words written is an accepted start (41_encrypt.md, Start;
43_control_commands.md for CLR). The key and the block stay. -/
def Obligations.EncStartIsAccepted : Prop :=
  ∀ (clr : Bool) (s : State), s.eng.busy = false → s.eng.keyWr = 0b1111#4 →
    exec (.wrCtrlEnc clr false) s = .next { s with
      rdata := 0#32
      eng := { s.eng with
        busy := true, mode := .enc, rc := 0#6, sum := 0x00000000#32, done := false
        errNoKey := s.eng.errNoKey && !clr
        errBusy := s.eng.errBusy && !clr
        errCmd := s.eng.errCmd && !clr } }

/-- A DEC word with KEYCLR = 0 while idle and with all four key words written is an accepted start (42_decrypt.md, Start;
43_control_commands.md for CLR). The key and the block stay. -/
def Obligations.DecStartIsAccepted : Prop :=
  ∀ (clr : Bool) (s : State), s.eng.busy = false → s.eng.keyWr = 0b1111#4 →
    exec (.wrCtrlDec clr false) s = .next { s with
      rdata := 0#32
      eng := { s.eng with
        busy := true, mode := .dec, rc := 0#6, sum := 0xC6EF3720#32, done := false
        errNoKey := s.eng.errNoKey && !clr
        errBusy := s.eng.errBusy && !clr
        errCmd := s.eng.errCmd && !clr } }

/-- An ENC or DEC word while idle with an incomplete key, or with KEYCLR = 1, starts nothing: it clears DONE and sets
ERR_NOKEY, and its CLR and KEYCLR take effect (60_exceptions.md, Error causes and codes; The source's undefined
behaviour). No block is transformed. -/
def Obligations.StartWithoutWholeKeyIsRefused : Prop :=
  ∀ (i : Instr) (clr keyclr : Bool) (s : State), i = .wrCtrlEnc clr keyclr ∨ i = .wrCtrlDec clr keyclr →
    s.eng.busy = false → s.eng.keyWr ≠ 0b1111#4 ∨ keyclr = true →
    exec i s = .next { s with
      rdata := 0#32
      eng := { s.eng with
        done := false
        errNoKey := true
        errBusy := s.eng.errBusy && !clr
        errCmd := s.eng.errCmd && !clr
        key := if keyclr then ⟨0#32, 0#32, 0#32, 0#32⟩ else s.eng.key
        keyWr := if keyclr then 0b0000#4 else s.eng.keyWr } }

/-- R28: KEY_VALID is the AND of the four KEY_WR bits, shown in STATUS[2], and a start word while idle makes the engine busy
if and only if KEY_VALID = 1 and the word does not clear the key first. WR_KEYn while idle sets KEY_WR[n], KEYCLR and reset
clear all four, and over a cycle without reset nothing else changes a KEY_WR bit. -/
def Obligations.StartIffKeyValid : Prop :=
  (∀ g : Engine, g.keyValid = (g.keyWr.getLsbD 0 && g.keyWr.getLsbD 1 && g.keyWr.getLsbD 2 && g.keyWr.getLsbD 3)) ∧
  (∀ g : Engine, g.status.getLsbD 2 = g.keyValid) ∧
  (∀ (i : Instr) (s : State), i.isStart = true → s.eng.busy = false →
    ∃ t, exec i s = .next t ∧ t.eng.busy = (s.eng.keyValid && !i.hasKeyclr)) ∧
  (∀ (n : KeyReg) (d : Word) (s : State), s.eng.busy = false →
    ∃ t, exec (.wrKey n d) s = .next t ∧ t.eng.keyWr.getLsbD n.index = true) ∧
  (∀ (i : Instr) (s : State), i.hasKeyclr = true → s.eng.busy = false →
    ∃ t, exec i s = .next t ∧ t.eng.keyWr = 0b0000#4) ∧
  (∀ s : State, s.ports.rstN = false → ∃ t, step s = .next t ∧ t.eng.keyWr = 0b0000#4) ∧
  (∀ (s t : State) (n : KeyReg), step s = .next t → s.ports.rstN = true →
    t.eng.keyWr.getLsbD n.index ≠ s.eng.keyWr.getLsbD n.index →
    s.eng.busy = false ∧ ∃ i : Instr, s.carries i ∧
      ((∃ d, i = .wrKey n d) ∧ t.eng.keyWr.getLsbD n.index = true ∨
        i.hasKeyclr = true ∧ t.eng.keyWr.getLsbD n.index = false))

/-- R97: CLR while idle clears DONE and the three error bits; only a start refused in the same word leaves ERR_NOKEY set, after
the clear; KEY and KEY_WR are touched by KEYCLR alone, DATA never, and SUM, RC and MODE only by an accepted start. While
busy the word is dropped and itself sets ERR_BUSY, so it clears no error; an illegal word clears nothing. -/
def Obligations.ClrClearsDoneAndErrors : Prop :=
  (∀ (d : Word) (s : State), ∃ t, exec (.wrCtrlIllegal d) s = .next t ∧ t.eng.done = s.eng.done ∧
    (s.eng.errNoKey = true → t.eng.errNoKey = true) ∧ (s.eng.errBusy = true → t.eng.errBusy = true) ∧
    (s.eng.errCmd = true → t.eng.errCmd = true)) ∧
  ∀ (i : Instr) (s : State), i.hasClr = true →
    ∃ t, exec i s = .next t ∧
      (s.eng.busy = false →
        t.eng.done = false ∧ t.eng.errBusy = false ∧ t.eng.errCmd = false ∧
        t.eng.errNoKey = (i.isStart && !t.eng.busy) ∧ t.eng.data = s.eng.data ∧
        (i.hasKeyclr = false → t.eng.key = s.eng.key ∧ t.eng.keyWr = s.eng.keyWr) ∧
        (t.eng.busy = false →
          t.eng.sum = s.eng.sum ∧ t.eng.rc = s.eng.rc ∧ t.eng.mode = s.eng.mode)) ∧
      (s.eng.busy = true → t.eng = { s.eng with errBusy := true })

/-- R98: KEYCLR while idle zeroes the key and KEY_WR; DATA stays, DONE and the error bits stay in a NOP word without CLR, and
a start in the same word is refused with ERR_NOKEY; afterwards every start is refused until all four key words have been
written again. -/
def Obligations.KeyclrZeroesKey : Prop :=
  (∀ (i : Instr) (s : State), i.hasKeyclr = true → s.eng.busy = false →
    ∃ t, exec i s = .next t ∧
      t.eng.key = ⟨0x00000000#32, 0x00000000#32, 0x00000000#32, 0x00000000#32⟩ ∧
      t.eng.keyWr = 0b0000#4 ∧ t.eng.keyValid = false ∧ t.eng.data = s.eng.data ∧
      t.eng.busy = false ∧ (i.isStart = true → t.eng.errNoKey = true) ∧
      (i.isStart = false → i.hasClr = false →
        t.eng.done = s.eng.done ∧ t.eng.errNoKey = s.eng.errNoKey ∧
        t.eng.errBusy = s.eng.errBusy ∧ t.eng.errCmd = s.eng.errCmd)) ∧
  ∀ (j : Instr) (u : State), j.isStart = true → u.eng.busy = false → u.eng.keyWr ≠ 0b1111#4 →
    ∃ v, exec j u = .next v ∧ v.eng.busy = false ∧ v.eng.errNoKey = true

/-- R100: an illegal command word while idle sets ERR_CMD and nothing of it takes effect; while busy it is dropped with
ERR_BUSY. The words are those with a bit of `D[31:4]` set or `D[1:0] = 0b11`. -/
def Obligations.IllegalWordRaisesErrCmd : Prop :=
  ∀ (d : Word) (s : State),
    (d.extractLsb' 4 28 ≠ 0#28 ∨ d.extractLsb' 0 2 = 0b11#2) →
    decode (transactionWord true 6#3 d) = .wrCtrlIllegal d ∧
    (s.eng.busy = false → exec (.wrCtrlIllegal d) s = .next { s with
      rdata := 0#32, eng := { s.eng with errCmd := true } }) ∧
    (s.eng.busy = true → exec (.wrCtrlIllegal d) s = .next { s with
      rdata := 0#32, eng := { s.eng with errBusy := true } })

/-- The frame of the legal command words, idle or busy: DATA and the pending inputs always; SUM, RC, MODE and BUSY unless
the word starts an operation; the key and KEY_WR unless KEYCLR; no word lowers DONE or an error bit but by CLR, or DONE by a
start word; none raises ERR_CMD or DONE (43_control_commands.md, "No command reads or writes DATA, SUM or RC except a
start"). -/
def Obligations.CommandWordFrame : Prop :=
  ∀ (i : Instr) (clr keyclr : Bool) (s t : State),
    i = .wrCtrlNop clr keyclr ∨ i = .wrCtrlEnc clr keyclr ∨ i = .wrCtrlDec clr keyclr → exec i s = .next t →
    t.eng.data = s.eng.data ∧ t.bus = s.bus ∧
    (t.eng.busy = s.eng.busy →
      t.eng.sum = s.eng.sum ∧ t.eng.rc = s.eng.rc ∧ t.eng.mode = s.eng.mode) ∧
    (i.isStart = false → t.eng.busy = s.eng.busy ∧ t.eng.done = (s.eng.done && !(clr && !s.eng.busy))) ∧
    (keyclr = false → t.eng.key = s.eng.key ∧ t.eng.keyWr = s.eng.keyWr) ∧
    (t.eng.done = true → s.eng.done = true) ∧ (t.eng.errCmd = true → s.eng.errCmd = true) ∧
    (clr = false → t.eng.errCmd = s.eng.errCmd ∧
      (s.eng.errBusy = true → t.eng.errBusy = true) ∧ (s.eng.errNoKey = true → t.eng.errNoKey = true)) ∧
    (s.eng.busy = false → t.eng.errBusy = true → s.eng.errBusy = true) ∧
    (i.isStart = false → t.eng.errNoKey = true → s.eng.errNoKey = true)

/-! ### Errors and the done output (60_exceptions.md) -/

/-- R106: one transaction raises at most one error, in the order ErrBusy, ErrCmd, ErrNoKey; a round that completes in the
same cycle as a write that raises ErrBusy takes its effect too. -/
def Obligations.OneErrorPerTransaction : Prop :=
  (∀ (i : Instr) (s : State),
    ∃ t, exec i s = .next t ∧
      (t.eng.errBusy = true → s.eng.errBusy = true ∨ s.eng.busy = true ∧ i.isWrite = true) ∧
      (t.eng.errCmd = true → s.eng.errCmd = true ∨ s.eng.busy = false ∧ ∃ d, i = .wrCtrlIllegal d) ∧
      (t.eng.errNoKey = true → s.eng.errNoKey = true ∨ s.eng.busy = false ∧ i.isStart = true) ∧
      (s.eng.busy = true → i.isWrite = true → t.eng = { s.eng with errBusy := true }) ∧
      (s.eng.busy = false → ∀ d, i = .wrCtrlIllegal d → t.eng = { s.eng with errCmd := true })) ∧
  (∀ (i : Instr) (s : State), s.carries i → i.isWrite = true → s.eng.busy = true → s.eng.rc = 31#6 →
    ∃ t, step s = .next t ∧ t.eng.errBusy = true ∧ t.eng.done = true ∧ t.eng.busy = false ∧
      t.eng.errCmd = s.eng.errCmd ∧ t.eng.errNoKey = s.eng.errNoKey)

/-- R108: over any cycle an error bit that is set stays set, unless the cycle is a reset or carries CLR while idle. -/
def Obligations.ErrorBitsAreSticky : Prop :=
  ∀ s t : State, step s = .next t → s.ports.rstN = true →
    ¬ (s.eng.busy = false ∧ ∃ i : Instr, s.carries i ∧ i.hasClr = true) →
    (s.eng.errNoKey = true → t.eng.errNoKey = true) ∧
    (s.eng.errBusy = true → t.eng.errBusy = true) ∧
    (s.eng.errCmd = true → t.eng.errCmd = true)

/-- R109: the `done` output is DONE; over a cycle it rises exactly at the edge that performs the 32nd round, falls exactly at
the edge that commits CLR or a legal ENC or DEC word while idle, or reset, and is a level: it stays otherwise. -/
def Obligations.DoneOutputRisesAndFalls : Prop :=
  (∀ s : State, s.donePin = s.eng.done) ∧
  ∀ s t : State, step s = .next t →
    (s.ports.rstN = false → t.donePin = false) ∧
    (s.ports.rstN = true → s.eng.busy = true → t.donePin = (s.donePin || s.eng.rc == 31#6)) ∧
    (s.ports.rstN = true → s.eng.busy = false → s.ports.sel = false → t.donePin = s.donePin) ∧
    (s.ports.rstN = true → s.eng.busy = false → ∀ i : Instr, s.carries i →
      t.donePin = (s.donePin && !(i.hasClr || i.isStart)))

/-- No cycle stops the machine: it never traps, halts or refuses (60_exceptions.md, The algorithm raises nothing). -/
def Obligations.EveryCycleCompletes : Prop :=
  (∀ (i : Instr) (s : State), ∃ t, exec i s = .next t) ∧ ∀ s : State, ∃ t, step s = .next t

/-! ### The rounds (41_encrypt.md, 42_decrypt.md) -/

/-- R75: the round function in exact arithmetic on numbers: each term is reduced modulo 2^32 on its own and the three are
combined by XOR; the right shift is the floor of the division by 32. Encrypt and decrypt apply it to (V1, K0, K1) and
(V0, K2, K3). -/
def Obligations.RoundFunctionArithmetic : Prop :=
  (∀ x s ka kb : Word, (roundF x s ka kb).toNat =
    (((x.toNat * 16 % 2 ^ 32 + ka.toNat) % 2 ^ 32) ^^^ ((x.toNat + s.toNat) % 2 ^ 32))
      ^^^ ((x.toNat / 32 + kb.toNat) % 2 ^ 32)) ∧
  (∀ s : Word, roundF 0#32 s 0#32 0#32 = s) ∧
  (∀ (k : Key) (s : Word) (b : Block),
    (encUpdate k s b).v0 = b.v0 + roundF b.v1 s k.k0 k.k1 ∧
    (encUpdate k s b).v1 = b.v1 + roundF (encUpdate k s b).v0 s k.k2 k.k3 ∧
    (decUpdate k s b).v1 = b.v1 - roundF b.v0 s k.k2 k.k3 ∧
    (decUpdate k s b).v0 = b.v0 - roundF (decUpdate k s b).v1 s k.k0 k.k1)

/-- R77: the encrypt round, with the completion check on the RC of the start of the cycle; nothing else is written. -/
def Obligations.EncryptRoundEffect : Prop :=
  ∀ g : Engine, g.busy = true → g.mode = .enc →
    g.engineStep = { g with
      sum := g.sum + 0x9E3779B9#32
      data := ⟨g.data.v0 + roundF g.data.v1 (g.sum + 0x9E3779B9#32) g.key.k0 g.key.k1,
        g.data.v1 + roundF (g.data.v0 + roundF g.data.v1 (g.sum + 0x9E3779B9#32) g.key.k0 g.key.k1)
          (g.sum + 0x9E3779B9#32) g.key.k2 g.key.k3⟩
      rc := g.rc + 1#6
      busy := !(g.rc + 1#6 == 32#6)
      done := g.done || g.rc + 1#6 == 32#6 }

/-- R87: the decrypt round, V1 first and the sum decremented last; nothing else is written. -/
def Obligations.DecryptRoundEffect : Prop :=
  ∀ g : Engine, g.busy = true → g.mode = .dec →
    g.engineStep = { g with
      data := ⟨g.data.v0 - roundF (g.data.v1 - roundF g.data.v0 g.sum g.key.k2 g.key.k3) g.sum g.key.k0 g.key.k1,
        g.data.v1 - roundF g.data.v0 g.sum g.key.k2 g.key.k3⟩
      sum := g.sum - 0x9E3779B9#32
      rc := g.rc + 1#6
      busy := !(g.rc + 1#6 == 32#6)
      done := g.done || g.rc + 1#6 == 32#6 }

/-- R78: the round that finds RC = 31 completes the operation, no other round does; then the engine is idle and performs
no round; RC is 32, the mode stays, and SUM is 0xC6EF3720 after encrypt and 0 after decrypt. The SUM clause is stated under
the invariant, since a SUM off its schedule is in no run. -/
def Obligations.CompletionEndsOperation : Prop :=
  ∀ g : Engine,
    (g.busy = true → g.rc = 31#6 →
      g.engineStep.busy = false ∧ g.engineStep.done = true ∧ g.engineStep.rc = 32#6 ∧
      g.engineStep.mode = g.mode ∧ g.engineStep.engineStep = g.engineStep ∧
      (g.Inv → g.mode = .enc → g.engineStep.sum = 0xC6EF3720#32) ∧
      (g.Inv → g.mode = .dec → g.engineStep.sum = 0x00000000#32)) ∧
    (g.busy = true → g.rc ≠ 31#6 → g.engineStep.busy = true ∧ g.engineStep.done = g.done) ∧
    (g.busy = false → g.engineStep = g)

/-- One decrypt round undoes one encrypt round with the same sum, and the other way round (42_decrypt.md, Inverse laws,
`D_s(E_s(x)) = x` and `E_s(D_s(y)) = y`; the spec marks it derived). -/
def Obligations.RoundsAreMutuallyInverse : Prop :=
  ∀ (k : Key) (s : Word) (b : Block),
    decUpdate k s (encUpdate k s b) = b ∧ encUpdate k s (decUpdate k s b) = b

/-- Decrypt inverts encrypt and encrypt inverts decrypt, for every key and every block (42_decrypt.md, Inverse laws; the
second form is the spec's inference, marked derived). -/
def Obligations.DecryptInvertsEncrypt : Prop :=
  ∀ (k : Key) (b : Block), teaDec k (teaEnc k b) = b ∧ teaEnc k (teaDec k b) = b

/-! ### Clock cycles (20_memory.md, 70_reset_and_hazards.md) -/

/-- R41: a cycle that carries a transaction, without reset, runs `exec` of the decoded instruction on the state at its
start, and in the same cycle the engine performs one round, computed from the state at the start of the cycle, if and only if
BUSY = 1 there. `carries` and `advanceBus` speak of the inputs, which the model holds as a list (log entry 2). -/
def Obligations.StepRunsDecodedTransaction : Prop :=
  ∀ (s : State) (i : Instr), s.carries i →
    i.wellFormed = true ∧
    ∃ h t, exec i s.advanceBus = .next h ∧ step s = .next t ∧ t.rdata = h.rdata ∧
      (s.eng.busy = false → t.eng = h.eng) ∧
      (s.eng.busy = true → t.eng = { h.eng with
        data := s.eng.engineStep.data, sum := s.eng.engineStep.sum, rc := s.eng.engineStep.rc,
        busy := s.eng.engineStep.busy, done := s.eng.engineStep.done })

/-- The word the host's driving stands for is the one the very next cycle runs, and nothing else changes; every cycle takes
one input cycle off the pending ones. The model's own choice of how a program reaches the engine (log entries 2 and 4). -/
def Obligations.PresentedWordRunsNext : Prop :=
  (∀ (s : State) (nbits w : Nat) (i : Instr), decodeTableWord nbits w = some i →
    (s.withFetchWord nbits w).carries i ∧ (s.withFetchWord nbits w).advanceBus = s) ∧
  ∀ s t : State, step s = .next t → t.bus = s.bus.tail

/-- R70: a cycle with `sel = 0` changes no state by itself; a round is performed if BUSY = 1; `rdata` is 0. -/
def Obligations.IdleCycleOnlyRounds : Prop :=
  ∀ s : State, s.ports.rstN = true → s.ports.sel = false →
    ∃ t, step s = .next t ∧ t.rdata = 0x00000000#32 ∧
      (s.eng.busy = false → t.eng = s.eng) ∧ (s.eng.busy = true → t.eng = s.eng.engineStep)

/-- The host's writes and the engine's round of one cycle never meet: the merged result is the round performed after the
transaction, and the transaction leaves what the round reads (20_memory.md, Cycle semantics and ordering, "No state element is
written by both the host and the engine at the same edge"; the spec marks it derived). -/
def Obligations.TransactionAndRoundAreDisjoint : Prop :=
  ∀ (s : State) (i : Instr) (h t : State), s.carries i → exec i s.advanceBus = .next h → step s = .next t →
    (s.eng.busy = true → t.eng = h.eng.engineStep ∧ h.eng = { s.eng with errBusy := h.eng.errBusy }) ∧
    (s.eng.busy = false → t.eng = h.eng)

/-- An edge with `rst_n = 0` puts every register at its reset value, whatever the cycle carries and whatever the engine was
doing: an operation is aborted and a write has no effect (70_reset_and_hazards.md, Reset). Nothing is said of `rdata` in a
reset cycle (93_implementation_defined.md I3). -/
def Obligations.ResetCycleRestoresResetValues : Prop :=
  ∀ s : State, s.ports.rstN = false →
    ∃ t, step s = .next t ∧ t.eng = Engine.reset ∧ t.bus = s.bus.tail

/-- R33: the reset state, register by register; with it STATUS and the outputs are 0; a reset edge puts the engine into it;
in a cycle that follows with no read `rdata` is 0; and without all four key words written no start is accepted. -/
def Obligations.ResetStateValues : Prop :=
  State.reset.eng.key = ⟨0x00000000#32, 0x00000000#32, 0x00000000#32, 0x00000000#32⟩ ∧
  State.reset.eng.data = ⟨0x00000000#32, 0x00000000#32⟩ ∧ State.reset.eng.sum = 0x00000000#32 ∧
  State.reset.eng.rc = 0#6 ∧ State.reset.eng.mode = .enc ∧ State.reset.eng.busy = false ∧
  State.reset.eng.done = false ∧ State.reset.eng.keyWr = 0b0000#4 ∧ State.reset.eng.keyValid = false ∧
  State.reset.eng.errNoKey = false ∧ State.reset.eng.errBusy = false ∧ State.reset.eng.errCmd = false ∧
  State.reset.eng.status = 0x00000000#32 ∧ State.reset.donePin = false ∧ State.reset.rdata = 0x00000000#32 ∧
  (∀ s : State, s.ports.rstN = false → ∃ t, step s = .next t ∧ t.eng = State.reset.eng) ∧
  (∀ s : State, s.eng = State.reset.eng → s.ports.sel = false ∨ s.ports.we = true →
    ∃ t, step s = .next t ∧ t.rdata = 0x00000000#32) ∧
  ∀ (i : Instr) (s : State), i.isStart = true → s.eng.busy = false → s.eng.keyWr ≠ 0b1111#4 →
    ∃ t, exec i s = .next t ∧ t.eng.busy = false ∧ t.eng.errNoKey = true

/-- The invariant holds of the machine right after reset. -/
def Obligations.ResetMeetsInvariant : Prop := State.reset.Inv

/-- Every cycle keeps the invariant, from every state that meets it and whatever the inputs: RC stays in 0..32, SUM stays on
its schedule, an operation runs under a whole key, DONE and BUSY exclude each other, an unwritten key word is zero
(10_state.md, Sequencing state; Running sum and mode; Control and status state). -/
def Obligations.EveryStepKeepsInvariant : Prop :=
  ∀ s t : State, s.Inv → step s = .next t → t.Inv

/-- R102: no transaction aborts an operation. In a cycle without reset that starts busy before the last round, whatever
the bus carries, the operation goes on by one round under the same key, and a write to CTRL has no effect but ERR_BUSY.
Reset stops it. -/
def Obligations.NothingButResetAborts : Prop :=
  (∀ s : State, s.ports.rstN = true → s.eng.busy = true → s.eng.rc ≠ 31#6 →
    ∃ t, step s = .next t ∧ t.eng.busy = true ∧ t.eng.rc = s.eng.rc + 1#6 ∧
      t.eng = { s.eng.engineStep with errBusy := t.eng.errBusy }) ∧
  (∀ s : State, s.ports.rstN = false → ∃ t, step s = .next t ∧ t.eng.busy = false)

/-- Over any cycle without reset a key word and its KEY_WR bit change only by WR_KEYn or KEYCLR while idle
(10_state.md, Key and block registers, "nothing else writes them"; Control and status state). -/
def Obligations.KeyChangesOnlyByHostWhileIdle : Prop :=
  ∀ (s t : State) (n : KeyReg), step s = .next t → s.ports.rstN = true →
    (t.eng.key.get n = s.eng.key.get n ∧ t.eng.keyWr.getLsbD n.index = s.eng.keyWr.getLsbD n.index) ∨
    s.eng.busy = false ∧
      ((∃ d, s.carries (.wrKey n d) ∧ t.eng.key.get n = d ∧ t.eng.keyWr.getLsbD n.index = true) ∨
       (∃ i : Instr, s.carries i ∧ i.hasKeyclr = true ∧ t.eng.key.get n = 0#32 ∧
         t.eng.keyWr.getLsbD n.index = false))

/-- Over any cycle without reset MODE changes only by an accepted start, to the mode of its command (10_state.md, Running sum
and mode, "A start writes it (0 for ENC, 1 for DEC); nothing else but reset writes it"). -/
def Obligations.ModeChangesOnlyByStart : Prop :=
  ∀ s t : State, step s = .next t → s.ports.rstN = true →
    t.eng.mode = s.eng.mode ∨
    s.eng.busy = false ∧ s.eng.keyWr = 0b1111#4 ∧ t.eng.busy = true ∧
      ∃ clr, s.carries (t.eng.mode.startWord clr)

/-! ### Whole operations -/

/-- After an accepted start carried in this cycle, and with no reset, the engine has done `r` rounds after `r` more cycles,
whatever the bus carries: BUSY = 1, RC = r, SUM on its schedule, DATA the intermediate block, for r = 0..31
(70_reset_and_hazards.md, Software-visible hazards; the spec marks the timing derived). It counts cycles, which rests on the
model's choice of the cycle-accurate rules (log entry 1), over inputs held as a list (log entry 2). -/
def Obligations.OperationTiming : Prop :=
  ∀ (m : Mode) (clr : Bool) (r : Nat) (s : State), r ≤ 31 → s.eng.busy = false → s.eng.keyWr = 0b1111#4 →
    s.carries (m.startWord clr) → noReset (r + 1) s.bus →
    ∃ t : State, Host.Core.run Sys2Proof.core (r + 1) s = .next t ∧
      t.eng.busy = true ∧ t.eng.done = false ∧ t.eng.rc = BitVec.ofNat 6 r ∧ t.eng.mode = m ∧
      t.eng.sum = scheduledSum m r ∧ t.eng.data = m.afterRounds s.eng.key r s.eng.data

/-- The engine computes `TEA_Enc`. From any idle state with a whole key, an ENC word carried in this cycle and 32 further
cycles without reset, whatever the bus carries in them, leave `TEA_Enc` of the key and the block at the start in DATA,
the engine idle and DONE set, RC = 32, SUM = 0xC6EF3720 and the key as it was (41_encrypt.md, Encrypt as a function, "The
engine computes TEA_Enc"; the spec marks it derived). The count of cycles is the model's choice, log entries 1 and 2. -/
def Obligations.EncryptOperationComputesTeaEnc : Prop :=
  ∀ (clr : Bool) (s : State), s.eng.busy = false → s.eng.keyWr = 0b1111#4 →
    s.carries (.wrCtrlEnc clr false) → noReset 33 s.bus →
    ∃ t : State, Host.Core.run Sys2Proof.core 33 s = .next t ∧
      t.eng.data = teaEnc s.eng.key s.eng.data ∧ t.eng.busy = false ∧ t.eng.done = true ∧
      t.eng.rc = 32#6 ∧ t.eng.mode = .enc ∧ t.eng.sum = 0xC6EF3720#32 ∧
      t.eng.key = s.eng.key ∧ t.eng.keyWr = s.eng.keyWr

/-- The engine computes `TEA_Dec`, as above with DEC, MODE = 1 and SUM = 0 (42_decrypt.md, Decrypt as a function, "The engine
computes TEA_Dec"; the spec marks it derived). The count of cycles is the model's choice, log entries 1 and 2. -/
def Obligations.DecryptOperationComputesTeaDec : Prop :=
  ∀ (clr : Bool) (s : State), s.eng.busy = false → s.eng.keyWr = 0b1111#4 →
    s.carries (.wrCtrlDec clr false) → noReset 33 s.bus →
    ∃ t : State, Host.Core.run Sys2Proof.core 33 s = .next t ∧
      t.eng.data = teaDec s.eng.key s.eng.data ∧ t.eng.busy = false ∧ t.eng.done = true ∧
      t.eng.rc = 32#6 ∧ t.eng.mode = .dec ∧ t.eng.sum = 0x00000000#32 ∧
      t.eng.key = s.eng.key ∧ t.eng.keyWr = s.eng.keyWr

/-- An encrypt operation followed, in the first cycle it allows, by a decrypt operation in place restores the block, whatever
else the bus carries and without any reset (42_decrypt.md, Start, "a DEC right after a completed ENC with no DATA reload
decrypts the ciphertext in place and restores the plaintext"). The count of cycles is the model's choice, log entries 1
and 2. -/
def Obligations.DecAfterEncRestoresBlockInPlace : Prop :=
  ∀ (clr clr' : Bool) (s : State), s.eng.busy = false → s.eng.keyWr = 0b1111#4 →
    s.carries (.wrCtrlEnc clr false) → noReset 66 s.bus →
    (s.bus.getD 33 BusCycle.idle).sel = true →
    decode (s.bus.getD 33 BusCycle.idle).word = .wrCtrlDec clr' false →
    ∃ t : State, Host.Core.run Sys2Proof.core 66 s = .next t ∧
      t.eng.data = s.eng.data ∧ t.eng.key = s.eng.key ∧ t.eng.busy = false ∧ t.eng.done = true ∧
      t.eng.mode = .dec

/-- Nothing but the key and the block reaches a result: two machines that agree on KEY and DATA at an accepted start of the
same command end with the same block, whatever their other registers and whatever their buses carry (40_register_access.md,
The source's operations on this interface, "No cross-call state"; the spec marks it derived). The count of cycles is the model's choice, log entries 1 and 2. -/
def Obligations.ResultDependsOnKeyAndBlockOnly : Prop :=
  ∀ (m : Mode) (clr clr' : Bool) (s s' : State),
    s.eng.key = s'.eng.key → s.eng.data = s'.eng.data →
    s.eng.busy = false → s'.eng.busy = false → s.eng.keyWr = 0b1111#4 → s'.eng.keyWr = 0b1111#4 →
    s.carries (m.startWord clr) → s'.carries (m.startWord clr') →
    noReset 33 s.bus → noReset 33 s'.bus →
    ∃ t t' : State, Host.Core.run Sys2Proof.core 33 s = .next t ∧ Host.Core.run Sys2Proof.core 33 s' = .next t' ∧
      t.eng.data = t'.eng.data ∧ t.eng.busy = false ∧ t'.eng.busy = false

/-- set_key: writing the key words in any order while idle, each register at least once, gives exactly that key with
KEY_VALID = 1 and changes no other register (40_register_access.md, The source's operations on this interface, "set_key"; the
spec marks it derived). -/
def Obligations.SetKeyInAnyOrder : Prop :=
  ∀ (k : Key) (ns : List KeyReg) (rest : List BusCycle) (s : State),
    (∀ n : KeyReg, n ∈ ns) → s.eng.busy = false →
    s.bus = ns.map (fun n => BusCycle.transact (encode (.wrKey n (k.get n)))) ++ rest →
    ∃ t : State, Host.Core.run Sys2Proof.core ns.length s = .next t ∧
      t.eng = { s.eng with key := k, keyWr := 0b1111#4 } ∧ t.eng.keyValid = true ∧ t.bus = rest

/-! ### Isolation -/

/-- The key is not observable on the bus of an idle engine: over any cycle two idle machines that differ in their key words
only have the same `done` output and still differ in their key words only, and in a cycle without reset they answer the same
`rdata` (40_register_access.md, Key words, "the key is never readable, in any state"). Nothing is said of `rdata` in a reset
cycle (93_implementation_defined.md I3). -/
def Obligations.KeyIsNotObservableWhileIdle : Prop :=
  ∀ s s' : State, s.eng.sameButKey s'.eng → s.bus = s'.bus → s.eng.busy = false →
    ∃ t t', step s = .next t ∧ step s' = .next t' ∧
      (s.ports.rstN = true → t.rdata = t'.rdata) ∧
      t.donePin = t'.donePin ∧ t.bus = t'.bus ∧ t.eng.sameButKey t'.eng

/-- SUM is never observable: no transaction answers differently, in any state, on machines that differ in SUM only
(60_exceptions.md, Platform around the engine, "SUM is never observable"). -/
def Obligations.SumIsNotObservable : Prop :=
  ∀ (i : Instr) (s s' : State), s.eng.sameButSum s'.eng → s.bus = s'.bus →
    ∃ t t', exec i s = .next t ∧ exec i s' = .next t' ∧
      t.rdata = t'.rdata ∧ t.donePin = t'.donePin ∧ t.bus = t'.bus ∧ t.eng.sameButSum t'.eng
end

