-- ==== Sys2Proof/Laws/Decode.lean ====
section
/-! SUPPORT. The fields of a transaction word and of a command word, read back from the words built of them; and the decoder
said once over those fields. -/

namespace Sys2Proof

/-- A bit of `{WE, A, D}`. -/
theorem transactionWord_getLsbD (we : Bool) (a : BitVec 3) (d : Word) (j : Nat) :
    (transactionWord we a d).getLsbD j =
      if j < 32 then d.getLsbD j else if j - 32 < 3 then a.getLsbD (j - 32) else decide (j = 35) && we := by
  show BitVec.getLsbD (w := 1 + 3 + 32) (BitVec.ofBool we ++ a ++ d) j = _
  rw [BitVec.getLsbD_append, BitVec.getLsbD_append, BitVec.getLsbD_ofBool]
  split
  · rfl
  · split
    · rfl
    · congr 1
      simp only [decide_eq_decide]
      omega

theorem transactionWord_we (we : Bool) (a : BitVec 3) (d : Word) : (transactionWord we a d).getLsbD 35 = we := by
  rw [transactionWord_getLsbD]; rfl

theorem transactionWord_a2 (we : Bool) (a : BitVec 3) (d : Word) :
    (transactionWord we a d).getLsbD 34 = a.getLsbD 2 := by
  rw [transactionWord_getLsbD]; rfl

theorem transactionWord_a1 (we : Bool) (a : BitVec 3) (d : Word) :
    (transactionWord we a d).getLsbD 33 = a.getLsbD 1 := by
  rw [transactionWord_getLsbD]; rfl

theorem transactionWord_a0 (we : Bool) (a : BitVec 3) (d : Word) :
    (transactionWord we a d).getLsbD 32 = a.getLsbD 0 := by
  rw [transactionWord_getLsbD]; rfl

theorem dataField_transactionWord (we : Bool) (a : BitVec 3) (d : Word) : dataField (transactionWord we a d) = d := by
  apply BitVec.eq_of_getLsbD_eq
  intro j hj
  rw [dataField, BitVec.getLsbD_extractLsb', transactionWord_getLsbD]
  simp [hj]

/-- A word is the transaction word of its own fields. -/
theorem transactionWord_fields (tw : TransactionWord) :
    transactionWord (tw.getLsbD 35) (tw.extractLsb' 32 3) (dataField tw) = tw := by
  apply BitVec.eq_of_getLsbD_eq
  intro j hj
  rw [transactionWord_getLsbD, dataField, BitVec.getLsbD_extractLsb', BitVec.getLsbD_extractLsb']
  split
  · simp [*]
  · split
    · rw [decide_eq_true ‹j - 32 < 3›, Bool.true_and]
      congr 1
      omega
    · obtain rfl : j = 35 := by omega
      rfl

/-- Three bits make an address. -/
theorem addr_bits (a : BitVec 3) :
    a = BitVec.ofBool (a.getLsbD 2) ++ BitVec.ofBool (a.getLsbD 1) ++ BitVec.ofBool (a.getLsbD 0) := by
  revert a; decide

/-- A mask that covers bits of `{WE, A}` only. -/
theorem transactionWord_mask (we : Bool) (a : BitVec 3) (d : Word) (m : TransactionWord) (e : BitVec 4)
    (he : m = e ++ 0#32) :
    transactionWord we a d &&& m = transactionWord (we && e.getLsbD 3) (a &&& e.setWidth 3) 0#32 := by
  subst he
  apply BitVec.eq_of_getLsbD_eq
  intro j hj
  rw [BitVec.getLsbD_and, transactionWord_getLsbD, transactionWord_getLsbD, BitVec.getLsbD_append]
  split
  · simp
  · split
    · rw [BitVec.getLsbD_and, BitVec.getLsbD_setWidth]
      simp [*]
    · obtain rfl : j = 35 := by omega
      simp

/-- The decoder over the fields of a word. -/
theorem decode_transactionWord (we : Bool) (a : BitVec 3) (d : Word) :
    decode (transactionWord we a d) =
      match we, a.getLsbD 2, a.getLsbD 1, a.getLsbD 0 with
      | false, false, a1, a0 => .rdKey (KeyReg.ofBits a1 a0)
      | false, true, false, a0 => .rdData (DataReg.ofBit a0)
      | false, true, true, false => .rdCtrl
      | false, true, true, true => .rdStatus
      | true, false, a1, a0 => .wrKey (KeyReg.ofBits a1 a0) d
      | true, true, false, a0 => .wrData (DataReg.ofBit a0) d
      | true, true, true, false => decodeCtrl d
      | true, true, true, true => .wrStatus d := by
  unfold decode
  rw [transactionWord_we, transactionWord_a2, transactionWord_a1, transactionWord_a0, dataField_transactionWord]
  all_goals rfl

/-- A command word with `RSV = 0` is made of its four low bits. -/
theorem commandWord_bits {d : Word} (h : rsvField d = 0#28) :
    d = commandWord (BitVec.ofBool (d.getLsbD 1) ++ BitVec.ofBool (d.getLsbD 0)) (clrField d) (keyclrField d) := by
  apply BitVec.eq_of_getLsbD_eq
  intro j hj
  have hr : ∀ m, m < 28 → d.getLsbD (4 + m) = false := by
    intro m hm
    have := congrArg (·.getLsbD m) h
    simpa [rsvField, hm] using this
  show _ = BitVec.getLsbD (w := 28 + 1 + 1 + (1 + 1)) (0#28 ++ BitVec.ofBool (keyclrField d)
    ++ BitVec.ofBool (clrField d) ++ (BitVec.ofBool (d.getLsbD 1) ++ BitVec.ofBool (d.getLsbD 0))) j
  rw [BitVec.getLsbD_append, BitVec.getLsbD_append, BitVec.getLsbD_append, BitVec.getLsbD_append]
  rcases Nat.lt_or_ge j 4 with h4 | h4
  · have : j = 0 ∨ j = 1 ∨ j = 2 ∨ j = 3 := by omega
    rcases this with rfl | rfl | rfl | rfl <;> simp [clrField, keyclrField]
  · have := hr (j - 4) (by omega)
    rw [show 4 + (j - 4) = j by omega] at this
    rw [this]
    have h1 : ¬ j < 1 + 1 := by omega
    have h2 : ¬ j - (1 + 1) < 1 := by omega
    have h3 : ¬ j - (1 + 1) - 1 < 1 := by omega
    simp [h1, h2, h3]

end Sys2Proof
end

