-- ==== Sys2Proof/Laws/State.lean ====
section
/-! SUPPORT. One lemma per register and per named update of the engine, so that no proof unfolds a record update. -/

namespace Sys2Proof.Machine

open Sys2Proof

/-! ### raise -/

@[simp] theorem Engine.raise_key (e : InterfaceError) (g : Engine) : (g.raise e).key = g.key := by cases e <;> rfl
@[simp] theorem Engine.raise_data (e : InterfaceError) (g : Engine) : (g.raise e).data = g.data := by cases e <;> rfl
@[simp] theorem Engine.raise_sum (e : InterfaceError) (g : Engine) : (g.raise e).sum = g.sum := by cases e <;> rfl
@[simp] theorem Engine.raise_rc (e : InterfaceError) (g : Engine) : (g.raise e).rc = g.rc := by cases e <;> rfl
@[simp] theorem Engine.raise_mode (e : InterfaceError) (g : Engine) : (g.raise e).mode = g.mode := by cases e <;> rfl
@[simp] theorem Engine.raise_busy (e : InterfaceError) (g : Engine) : (g.raise e).busy = g.busy := by cases e <;> rfl
@[simp] theorem Engine.raise_done (e : InterfaceError) (g : Engine) : (g.raise e).done = g.done := by cases e <;> rfl
@[simp] theorem Engine.raise_keyWr (e : InterfaceError) (g : Engine) : (g.raise e).keyWr = g.keyWr := by cases e <;> rfl
@[simp] theorem Engine.raise_noKey_errNoKey (g : Engine) : (g.raise .noKey).errNoKey = true := rfl
@[simp] theorem Engine.raise_noKey_errBusy (g : Engine) : (g.raise .noKey).errBusy = g.errBusy := rfl
@[simp] theorem Engine.raise_noKey_errCmd (g : Engine) : (g.raise .noKey).errCmd = g.errCmd := rfl
@[simp] theorem Engine.raise_busy_errNoKey (g : Engine) : (g.raise .busy).errNoKey = g.errNoKey := rfl
@[simp] theorem Engine.raise_busy_errBusy (g : Engine) : (g.raise .busy).errBusy = true := rfl
@[simp] theorem Engine.raise_busy_errCmd (g : Engine) : (g.raise .busy).errCmd = g.errCmd := rfl
@[simp] theorem Engine.raise_cmd_errNoKey (g : Engine) : (g.raise .cmd).errNoKey = g.errNoKey := rfl
@[simp] theorem Engine.raise_cmd_errBusy (g : Engine) : (g.raise .cmd).errBusy = g.errBusy := rfl
@[simp] theorem Engine.raise_cmd_errCmd (g : Engine) : (g.raise .cmd).errCmd = true := rfl

/-! ### clearFlags -/

@[simp] theorem Engine.clearFlags_key (g : Engine) : (g.clearFlags).key = g.key := rfl
@[simp] theorem Engine.clearFlags_data (g : Engine) : (g.clearFlags).data = g.data := rfl
@[simp] theorem Engine.clearFlags_sum (g : Engine) : (g.clearFlags).sum = g.sum := rfl
@[simp] theorem Engine.clearFlags_rc (g : Engine) : (g.clearFlags).rc = g.rc := rfl
@[simp] theorem Engine.clearFlags_mode (g : Engine) : (g.clearFlags).mode = g.mode := rfl
@[simp] theorem Engine.clearFlags_busy (g : Engine) : (g.clearFlags).busy = g.busy := rfl
@[simp] theorem Engine.clearFlags_done (g : Engine) : (g.clearFlags).done = false := rfl
@[simp] theorem Engine.clearFlags_keyWr (g : Engine) : (g.clearFlags).keyWr = g.keyWr := rfl
@[simp] theorem Engine.clearFlags_errNoKey (g : Engine) : (g.clearFlags).errNoKey = false := rfl
@[simp] theorem Engine.clearFlags_errBusy (g : Engine) : (g.clearFlags).errBusy = false := rfl
@[simp] theorem Engine.clearFlags_errCmd (g : Engine) : (g.clearFlags).errCmd = false := rfl

/-! ### clearKey -/

@[simp] theorem Engine.clearKey_key (g : Engine) : (g.clearKey).key = ⟨0#32, 0#32, 0#32, 0#32⟩ := rfl
@[simp] theorem Engine.clearKey_data (g : Engine) : (g.clearKey).data = g.data := rfl
@[simp] theorem Engine.clearKey_sum (g : Engine) : (g.clearKey).sum = g.sum := rfl
@[simp] theorem Engine.clearKey_rc (g : Engine) : (g.clearKey).rc = g.rc := rfl
@[simp] theorem Engine.clearKey_mode (g : Engine) : (g.clearKey).mode = g.mode := rfl
@[simp] theorem Engine.clearKey_busy (g : Engine) : (g.clearKey).busy = g.busy := rfl
@[simp] theorem Engine.clearKey_done (g : Engine) : (g.clearKey).done = g.done := rfl
@[simp] theorem Engine.clearKey_keyWr (g : Engine) : (g.clearKey).keyWr = 0#4 := rfl
@[simp] theorem Engine.clearKey_errNoKey (g : Engine) : (g.clearKey).errNoKey = g.errNoKey := rfl
@[simp] theorem Engine.clearKey_errBusy (g : Engine) : (g.clearKey).errBusy = g.errBusy := rfl
@[simp] theorem Engine.clearKey_errCmd (g : Engine) : (g.clearKey).errCmd = g.errCmd := rfl

/-! ### markKey -/

@[simp] theorem Engine.markKey_key (n : KeyReg) (g : Engine) : (Engine.markKey n g).key = g.key := rfl
@[simp] theorem Engine.markKey_data (n : KeyReg) (g : Engine) : (Engine.markKey n g).data = g.data := rfl
@[simp] theorem Engine.markKey_sum (n : KeyReg) (g : Engine) : (Engine.markKey n g).sum = g.sum := rfl
@[simp] theorem Engine.markKey_rc (n : KeyReg) (g : Engine) : (Engine.markKey n g).rc = g.rc := rfl
@[simp] theorem Engine.markKey_mode (n : KeyReg) (g : Engine) : (Engine.markKey n g).mode = g.mode := rfl
@[simp] theorem Engine.markKey_busy (n : KeyReg) (g : Engine) : (Engine.markKey n g).busy = g.busy := rfl
@[simp] theorem Engine.markKey_done (n : KeyReg) (g : Engine) : (Engine.markKey n g).done = g.done := rfl
@[simp] theorem Engine.markKey_keyWr (n : KeyReg) (g : Engine) : (Engine.markKey n g).keyWr = g.keyWr ||| (1#4 <<< n.index) := rfl
@[simp] theorem Engine.markKey_errNoKey (n : KeyReg) (g : Engine) : (Engine.markKey n g).errNoKey = g.errNoKey := rfl
@[simp] theorem Engine.markKey_errBusy (n : KeyReg) (g : Engine) : (Engine.markKey n g).errBusy = g.errBusy := rfl
@[simp] theorem Engine.markKey_errCmd (n : KeyReg) (g : Engine) : (Engine.markKey n g).errCmd = g.errCmd := rfl

/-! ### writeKey -/

@[simp] theorem Engine.writeKey_key (n : KeyReg) (d : Word) (g : Engine) : (Engine.writeKey n d g).key = g.key.set n d := rfl
@[simp] theorem Engine.writeKey_data (n : KeyReg) (d : Word) (g : Engine) : (Engine.writeKey n d g).data = g.data := rfl
@[simp] theorem Engine.writeKey_sum (n : KeyReg) (d : Word) (g : Engine) : (Engine.writeKey n d g).sum = g.sum := rfl
@[simp] theorem Engine.writeKey_rc (n : KeyReg) (d : Word) (g : Engine) : (Engine.writeKey n d g).rc = g.rc := rfl
@[simp] theorem Engine.writeKey_mode (n : KeyReg) (d : Word) (g : Engine) : (Engine.writeKey n d g).mode = g.mode := rfl
@[simp] theorem Engine.writeKey_busy (n : KeyReg) (d : Word) (g : Engine) : (Engine.writeKey n d g).busy = g.busy := rfl
@[simp] theorem Engine.writeKey_done (n : KeyReg) (d : Word) (g : Engine) : (Engine.writeKey n d g).done = g.done := rfl
@[simp] theorem Engine.writeKey_keyWr (n : KeyReg) (d : Word) (g : Engine) : (Engine.writeKey n d g).keyWr = g.keyWr ||| (1#4 <<< n.index) := rfl
@[simp] theorem Engine.writeKey_errNoKey (n : KeyReg) (d : Word) (g : Engine) : (Engine.writeKey n d g).errNoKey = g.errNoKey := rfl
@[simp] theorem Engine.writeKey_errBusy (n : KeyReg) (d : Word) (g : Engine) : (Engine.writeKey n d g).errBusy = g.errBusy := rfl
@[simp] theorem Engine.writeKey_errCmd (n : KeyReg) (d : Word) (g : Engine) : (Engine.writeKey n d g).errCmd = g.errCmd := rfl

/-! ### writeData -/

@[simp] theorem Engine.writeData_key (n : DataReg) (d : Word) (g : Engine) : (Engine.writeData n d g).key = g.key := rfl
@[simp] theorem Engine.writeData_data (n : DataReg) (d : Word) (g : Engine) : (Engine.writeData n d g).data = g.data.set n d := rfl
@[simp] theorem Engine.writeData_sum (n : DataReg) (d : Word) (g : Engine) : (Engine.writeData n d g).sum = g.sum := rfl
@[simp] theorem Engine.writeData_rc (n : DataReg) (d : Word) (g : Engine) : (Engine.writeData n d g).rc = g.rc := rfl
@[simp] theorem Engine.writeData_mode (n : DataReg) (d : Word) (g : Engine) : (Engine.writeData n d g).mode = g.mode := rfl
@[simp] theorem Engine.writeData_busy (n : DataReg) (d : Word) (g : Engine) : (Engine.writeData n d g).busy = g.busy := rfl
@[simp] theorem Engine.writeData_done (n : DataReg) (d : Word) (g : Engine) : (Engine.writeData n d g).done = g.done := rfl
@[simp] theorem Engine.writeData_keyWr (n : DataReg) (d : Word) (g : Engine) : (Engine.writeData n d g).keyWr = g.keyWr := rfl
@[simp] theorem Engine.writeData_errNoKey (n : DataReg) (d : Word) (g : Engine) : (Engine.writeData n d g).errNoKey = g.errNoKey := rfl
@[simp] theorem Engine.writeData_errBusy (n : DataReg) (d : Word) (g : Engine) : (Engine.writeData n d g).errBusy = g.errBusy := rfl
@[simp] theorem Engine.writeData_errCmd (n : DataReg) (d : Word) (g : Engine) : (Engine.writeData n d g).errCmd = g.errCmd := rfl

/-! ### start -/

@[simp] theorem Engine.start_key (m : Mode) (g : Engine) : (g.start m).key = g.key := rfl
@[simp] theorem Engine.start_data (m : Mode) (g : Engine) : (g.start m).data = g.data := rfl
@[simp] theorem Engine.start_sum (m : Mode) (g : Engine) : (g.start m).sum = m.initSum := rfl
@[simp] theorem Engine.start_rc (m : Mode) (g : Engine) : (g.start m).rc = 0#6 := rfl
@[simp] theorem Engine.start_mode (m : Mode) (g : Engine) : (g.start m).mode = m := rfl
@[simp] theorem Engine.start_busy (m : Mode) (g : Engine) : (g.start m).busy = true := rfl
@[simp] theorem Engine.start_done (m : Mode) (g : Engine) : (g.start m).done = g.done := rfl
@[simp] theorem Engine.start_keyWr (m : Mode) (g : Engine) : (g.start m).keyWr = g.keyWr := rfl
@[simp] theorem Engine.start_errNoKey (m : Mode) (g : Engine) : (g.start m).errNoKey = g.errNoKey := rfl
@[simp] theorem Engine.start_errBusy (m : Mode) (g : Engine) : (g.start m).errBusy = g.errBusy := rfl
@[simp] theorem Engine.start_errCmd (m : Mode) (g : Engine) : (g.start m).errCmd = g.errCmd := rfl

/-! ### the machine's inputs -/

@[simp] theorem State.advanceBus_eng (s : State) : s.advanceBus.eng = s.eng := rfl
@[simp] theorem State.advanceBus_rdata (s : State) : s.advanceBus.rdata = s.rdata := rfl
@[simp] theorem State.advanceBus_bus (s : State) : s.advanceBus.bus = s.bus.tail := rfl
@[simp] theorem State.present_eng (tw : TransactionWord) (s : State) : (s.present tw).eng = s.eng := rfl
@[simp] theorem State.present_rdata (tw : TransactionWord) (s : State) : (s.present tw).rdata = s.rdata := rfl
@[simp] theorem State.present_bus (tw : TransactionWord) (s : State) :
    (s.present tw).bus = BusCycle.transact tw :: s.bus := rfl
@[simp] theorem State.present_ports (tw : TransactionWord) (s : State) :
    (s.present tw).ports = BusCycle.transact tw := rfl
@[simp] theorem State.present_advanceBus (tw : TransactionWord) (s : State) : (s.present tw).advanceBus = s := rfl
@[simp] theorem State.closeEdge_rdata (r : Bool) (g : Engine) (s : State) :
    (s.closeEdge r g).rdata = s.rdata := by cases r <;> rfl
@[simp] theorem State.closeEdge_bus (r : Bool) (g : Engine) (s : State) :
    (s.closeEdge r g).bus = s.bus := by cases r <;> rfl
@[simp] theorem State.closeEdge_reset (g : Engine) (s : State) : (s.closeEdge false g).eng = Engine.reset := rfl
@[simp] theorem State.closeEdge_run (g : Engine) (s : State) : (s.closeEdge true g).eng = g.commitRound s.eng := rfl

/-! ### the key and block registers -/

theorem Key.get_set (k : Key) (n m : KeyReg) (d : Word) : (k.set n d).get m = if m = n then d else k.get m := by
  cases n <;> cases m <;> rfl

theorem Block.get_set (b : Block) (n m : DataReg) (d : Word) :
    (b.set n d).get m = if m = n then d else b.get m := by
  cases n <;> cases m <;> rfl

/-- The engine written as its registers: two engines with equal registers are equal. -/
theorem Engine.ext_registers {g h : Engine} (hk : g.key = h.key) (hd : g.data = h.data) (hs : g.sum = h.sum)
    (hr : g.rc = h.rc) (hm : g.mode = h.mode) (hb : g.busy = h.busy) (hdn : g.done = h.done)
    (hw : g.keyWr = h.keyWr) (hn : g.errNoKey = h.errNoKey) (he : g.errBusy = h.errBusy)
    (hc : g.errCmd = h.errCmd) : g = h := by
  cases g; cases h; simp_all

end Sys2Proof.Machine
end

