-- ==== Sys2Proof/Laws/Ops.lean ====
section
/-! SUPPORT. What each shared operation can do, said once: the write gate, the steps of a command word, a transaction, and
the host's part of a cycle. -/

namespace Sys2Proof.Machine

open Sys2Proof

theorem Engine.writeGate_busy {g : Engine} (f : Engine → Engine) (h : g.busy = true) :
    g.writeGate f = g.raise .busy := by simp [Engine.writeGate, h]

theorem Engine.writeGate_idle {g : Engine} (f : Engine → Engine) (h : g.busy = false) :
    g.writeGate f = f g := by simp [Engine.writeGate, h]

theorem Engine.tryStart_accepted {g : Engine} (m : Mode) (h : g.keyWr = 0b1111#4) :
    g.tryStart m = Engine.start m { g with done := false } := by simp [Engine.tryStart, h]

theorem Engine.tryStart_refused {g : Engine} (m : Mode) (h : g.keyWr ≠ 0b1111#4) :
    g.tryStart m = Engine.raise .noKey { g with done := false } := by simp [Engine.tryStart, h]

/-! ### the steps of a command word, register by register -/

@[simp] theorem Engine.prepare_key (c k : Bool) (g : Engine) : (g.prepare c k).key = if k then ⟨0#32, 0#32, 0#32, 0#32⟩ else g.key := by cases c <;> cases k <;> simp [Engine.prepare]
@[simp] theorem Engine.prepare_data (c k : Bool) (g : Engine) : (g.prepare c k).data = g.data := by cases c <;> cases k <;> simp [Engine.prepare]
@[simp] theorem Engine.prepare_sum (c k : Bool) (g : Engine) : (g.prepare c k).sum = g.sum := by cases c <;> cases k <;> simp [Engine.prepare]
@[simp] theorem Engine.prepare_rc (c k : Bool) (g : Engine) : (g.prepare c k).rc = g.rc := by cases c <;> cases k <;> simp [Engine.prepare]
@[simp] theorem Engine.prepare_mode (c k : Bool) (g : Engine) : (g.prepare c k).mode = g.mode := by cases c <;> cases k <;> simp [Engine.prepare]
@[simp] theorem Engine.prepare_busy (c k : Bool) (g : Engine) : (g.prepare c k).busy = g.busy := by cases c <;> cases k <;> simp [Engine.prepare]
@[simp] theorem Engine.prepare_done (c k : Bool) (g : Engine) : (g.prepare c k).done = (g.done && !c) := by cases c <;> cases k <;> simp [Engine.prepare]
@[simp] theorem Engine.prepare_keyWr (c k : Bool) (g : Engine) : (g.prepare c k).keyWr = if k then 0#4 else g.keyWr := by cases c <;> cases k <;> simp [Engine.prepare]
@[simp] theorem Engine.prepare_errNoKey (c k : Bool) (g : Engine) : (g.prepare c k).errNoKey = (g.errNoKey && !c) := by cases c <;> cases k <;> simp [Engine.prepare]
@[simp] theorem Engine.prepare_errBusy (c k : Bool) (g : Engine) : (g.prepare c k).errBusy = (g.errBusy && !c) := by cases c <;> cases k <;> simp [Engine.prepare]
@[simp] theorem Engine.prepare_errCmd (c k : Bool) (g : Engine) : (g.prepare c k).errCmd = (g.errCmd && !c) := by cases c <;> cases k <;> simp [Engine.prepare]

@[simp] theorem Engine.tryStart_key (m : Mode) (g : Engine) :
    (g.tryStart m).key = g.key := by
  by_cases h : g.keyWr = 0b1111#4 <;> simp [Engine.tryStart, h]
@[simp] theorem Engine.tryStart_data (m : Mode) (g : Engine) :
    (g.tryStart m).data = g.data := by
  by_cases h : g.keyWr = 0b1111#4 <;> simp [Engine.tryStart, h]
@[simp] theorem Engine.tryStart_sum (m : Mode) (g : Engine) :
    (g.tryStart m).sum = if g.keyWr = 0b1111#4 then m.initSum else g.sum := by
  by_cases h : g.keyWr = 0b1111#4 <;> simp [Engine.tryStart, h]
@[simp] theorem Engine.tryStart_rc (m : Mode) (g : Engine) :
    (g.tryStart m).rc = if g.keyWr = 0b1111#4 then 0#6 else g.rc := by
  by_cases h : g.keyWr = 0b1111#4 <;> simp [Engine.tryStart, h]
@[simp] theorem Engine.tryStart_mode (m : Mode) (g : Engine) :
    (g.tryStart m).mode = if g.keyWr = 0b1111#4 then m else g.mode := by
  by_cases h : g.keyWr = 0b1111#4 <;> simp [Engine.tryStart, h]
@[simp] theorem Engine.tryStart_busy (m : Mode) (g : Engine) :
    (g.tryStart m).busy = if g.keyWr = 0b1111#4 then true else g.busy := by
  by_cases h : g.keyWr = 0b1111#4 <;> simp [Engine.tryStart, h]
@[simp] theorem Engine.tryStart_done (m : Mode) (g : Engine) :
    (g.tryStart m).done = false := by
  by_cases h : g.keyWr = 0b1111#4 <;> simp [Engine.tryStart, h]
@[simp] theorem Engine.tryStart_keyWr (m : Mode) (g : Engine) :
    (g.tryStart m).keyWr = g.keyWr := by
  by_cases h : g.keyWr = 0b1111#4 <;> simp [Engine.tryStart, h]
@[simp] theorem Engine.tryStart_errNoKey (m : Mode) (g : Engine) :
    (g.tryStart m).errNoKey = if g.keyWr = 0b1111#4 then g.errNoKey else true := by
  by_cases h : g.keyWr = 0b1111#4 <;> simp [Engine.tryStart, h]
@[simp] theorem Engine.tryStart_errBusy (m : Mode) (g : Engine) :
    (g.tryStart m).errBusy = g.errBusy := by
  by_cases h : g.keyWr = 0b1111#4 <;> simp [Engine.tryStart, h]
@[simp] theorem Engine.tryStart_errCmd (m : Mode) (g : Engine) :
    (g.tryStart m).errCmd = g.errCmd := by
  by_cases h : g.keyWr = 0b1111#4 <;> simp [Engine.tryStart, h]

/-- A write transaction in full: ERR_BUSY alone while busy, else the effect. -/
theorem State.write_eq (f : Engine → Engine) (s : State) :
    s.write f = .next { s with
      eng := if s.eng.busy then { s.eng with errBusy := true } else f s.eng, rdata := 0#32 } := rfl

/-- The engine's own effect of a transaction, after the write gate. -/
def Instr.effect (i : Instr) (g : Engine) : Engine :=
  match i with
  | .rdKey _ => g
  | .rdData _ => g
  | .rdCtrl => g
  | .rdStatus => g
  | .wrKey n d => Engine.writeKey n d g
  | .wrData n d => Engine.writeData n d g
  | .wrCtrlNop clr keyclr => g.prepare clr keyclr
  | .wrCtrlEnc clr keyclr => (g.prepare clr keyclr).tryStart .enc
  | .wrCtrlDec clr keyclr => (g.prepare clr keyclr).tryStart .dec
  | .wrCtrlIllegal _ => g.raise .cmd
  | .wrStatus _ => g

/-- What a transaction drives on `rdata`. -/
def Instr.answer (i : Instr) (g : Engine) : Word :=
  match i with
  | .rdKey _ => 0#32
  | .rdData n => g.data.get n
  | .rdCtrl => 0#32
  | .rdStatus => g.status
  | .wrKey _ _ => 0#32
  | .wrData _ _ => 0#32
  | .wrCtrlNop _ _ => 0#32
  | .wrCtrlEnc _ _ => 0#32
  | .wrCtrlDec _ _ => 0#32
  | .wrCtrlIllegal _ => 0#32
  | .wrStatus _ => 0#32

/-- The engine after the host's transaction: a read leaves it, a write goes through the gate. -/
def Instr.hostEngine (i : Instr) (g : Engine) : Engine :=
  if i.isWrite then g.writeGate (Instr.effect i) else g

/-- Every transaction answers a next state, and this is the one. -/
theorem exec_eq (i : Instr) (s : State) :
    exec i s = .next { s with eng := Instr.hostEngine i s.eng, rdata := Instr.answer i s.eng } := by
  cases i <;> rfl

theorem exec_next_iff (i : Instr) (s t : State) :
    exec i s = .next t ↔ t = { s with eng := Instr.hostEngine i s.eng, rdata := Instr.answer i s.eng } := by
  rw [exec_eq]
  exact ⟨fun h => (Host.Outcome.next.inj h).symm, fun h => by rw [h]⟩

theorem Instr.hostEngine_read {i : Instr} (g : Engine) (h : i.isWrite = false) : Instr.hostEngine i g = g := by
  simp [Instr.hostEngine, h]

theorem Instr.hostEngine_busy {i : Instr} {g : Engine} (h : i.isWrite = true) (hb : g.busy = true) :
    Instr.hostEngine i g = g.raise .busy := by
  simp [Instr.hostEngine, h, Engine.writeGate_busy _ hb]

theorem Instr.hostEngine_idle {i : Instr} {g : Engine} (h : i.isWrite = true) (hb : g.busy = false) :
    Instr.hostEngine i g = Instr.effect i g := by
  simp [Instr.hostEngine, h, Engine.writeGate_idle _ hb]

/-- While busy a transaction changes ERR_BUSY at most. -/
theorem Instr.hostEngine_busy_cases (i : Instr) {g : Engine} (hb : g.busy = true) :
    Instr.hostEngine i g = g ∨ i.isWrite = true ∧ Instr.hostEngine i g = g.raise .busy := by
  cases h : i.isWrite with
  | false => exact .inl (Instr.hostEngine_read g h)
  | true => exact .inr ⟨rfl, Instr.hostEngine_busy h hb⟩

/-- The ports that carry `tw` spell `tw`. -/
theorem BusCycle.word_transact (tw : TransactionWord) : (BusCycle.transact tw).word = tw :=
  transactionWord_fields tw

end Sys2Proof.Machine
end

