-- ==== Sys2Proof/Laws/Cipher.lean ====
section
/-! SUPPORT. What a round and its commit do to each register, and the loops of the whole functions unrolled at their last
round. -/

namespace Sys2Proof.Machine

open Sys2Proof

/-! ### one round -/

@[simp] theorem Engine.complete_key (g h : Engine) : (Engine.complete g h).key = h.key := by
  unfold Engine.complete; split <;> rfl
@[simp] theorem Engine.complete_data (g h : Engine) : (Engine.complete g h).data = h.data := by
  unfold Engine.complete; split <;> rfl
@[simp] theorem Engine.complete_sum (g h : Engine) : (Engine.complete g h).sum = h.sum := by
  unfold Engine.complete; split <;> rfl
@[simp] theorem Engine.complete_rc (g h : Engine) : (Engine.complete g h).rc = h.rc := by
  unfold Engine.complete; split <;> rfl
@[simp] theorem Engine.complete_mode (g h : Engine) : (Engine.complete g h).mode = h.mode := by
  unfold Engine.complete; split <;> rfl
@[simp] theorem Engine.complete_keyWr (g h : Engine) : (Engine.complete g h).keyWr = h.keyWr := by
  unfold Engine.complete; split <;> rfl
@[simp] theorem Engine.complete_errNoKey (g h : Engine) : (Engine.complete g h).errNoKey = h.errNoKey := by
  unfold Engine.complete; split <;> rfl
@[simp] theorem Engine.complete_errBusy (g h : Engine) : (Engine.complete g h).errBusy = h.errBusy := by
  unfold Engine.complete; split <;> rfl
@[simp] theorem Engine.complete_errCmd (g h : Engine) : (Engine.complete g h).errCmd = h.errCmd := by
  unfold Engine.complete; split <;> rfl
@[simp] theorem Engine.complete_busy (g h : Engine) :
    (Engine.complete g h).busy = if g.completes then false else h.busy := by
  unfold Engine.complete; split <;> rfl
@[simp] theorem Engine.complete_done (g h : Engine) :
    (Engine.complete g h).done = if g.completes then true else h.done := by
  unfold Engine.complete; split <;> rfl

/-- The completion check tests RC for 31, the RC the last round finds. -/
theorem Engine.completes_iff (g : Engine) : g.completes = true ↔ g.rc = 31#6 := by
  unfold Engine.completes Config.rounds
  rw [beq_iff_eq]
  constructor <;> intro h <;> bv_omega

@[simp] theorem Engine.round_key (g : Engine) : g.round.key = g.key := by
  unfold Engine.round Engine.encRound Engine.decRound; split <;> simp
@[simp] theorem Engine.round_rc (g : Engine) : g.round.rc = g.rc + 1#6 := by
  unfold Engine.round Engine.encRound Engine.decRound; split <;> simp
@[simp] theorem Engine.round_mode (g : Engine) : g.round.mode = g.mode := by
  unfold Engine.round Engine.encRound Engine.decRound; split <;> simp
@[simp] theorem Engine.round_keyWr (g : Engine) : g.round.keyWr = g.keyWr := by
  unfold Engine.round Engine.encRound Engine.decRound; split <;> simp
@[simp] theorem Engine.round_errNoKey (g : Engine) : g.round.errNoKey = g.errNoKey := by
  unfold Engine.round Engine.encRound Engine.decRound; split <;> simp
@[simp] theorem Engine.round_errBusy (g : Engine) : g.round.errBusy = g.errBusy := by
  unfold Engine.round Engine.encRound Engine.decRound; split <;> simp
@[simp] theorem Engine.round_errCmd (g : Engine) : g.round.errCmd = g.errCmd := by
  unfold Engine.round Engine.encRound Engine.decRound; split <;> simp
@[simp] theorem Engine.round_busy (g : Engine) : g.round.busy = if g.completes then false else g.busy := by
  unfold Engine.round Engine.encRound Engine.decRound; split <;> simp
@[simp] theorem Engine.round_done (g : Engine) : g.round.done = if g.completes then true else g.done := by
  unfold Engine.round Engine.encRound Engine.decRound; split <;> simp

theorem Engine.round_enc_sum {g : Engine} (h : g.mode = .enc) : g.round.sum = g.sum + Config.delta := by
  simp [Engine.round, h, Engine.encRound]
theorem Engine.round_enc_data {g : Engine} (h : g.mode = .enc) :
    g.round.data = encUpdate g.key (g.sum + Config.delta) g.data := by
  simp [Engine.round, h, Engine.encRound]
theorem Engine.round_dec_sum {g : Engine} (h : g.mode = .dec) : g.round.sum = g.sum - Config.delta := by
  simp [Engine.round, h, Engine.decRound]
theorem Engine.round_dec_data {g : Engine} (h : g.mode = .dec) :
    g.round.data = decUpdate g.key g.sum g.data := by
  simp [Engine.round, h, Engine.decRound]

/-! ### the commit at the edge -/

theorem Engine.commitRound_idle {g : Engine} (h : Engine) (hb : g.busy = false) : g.commitRound h = h := by
  simp [Engine.commitRound, hb]

theorem Engine.commitRound_busy {g : Engine} (h : Engine) (hb : g.busy = true) :
    g.commitRound h = { h with
      data := g.round.data, sum := g.round.sum, rc := g.round.rc, busy := g.round.busy, done := g.round.done } := by
  simp [Engine.commitRound, hb]

@[simp] theorem Engine.commitRound_key (g h : Engine) : (g.commitRound h).key = h.key := by
  unfold Engine.commitRound; split <;> rfl
@[simp] theorem Engine.commitRound_mode (g h : Engine) : (g.commitRound h).mode = h.mode := by
  unfold Engine.commitRound; split <;> rfl
@[simp] theorem Engine.commitRound_keyWr (g h : Engine) : (g.commitRound h).keyWr = h.keyWr := by
  unfold Engine.commitRound; split <;> rfl
@[simp] theorem Engine.commitRound_errNoKey (g h : Engine) : (g.commitRound h).errNoKey = h.errNoKey := by
  unfold Engine.commitRound; split <;> rfl
@[simp] theorem Engine.commitRound_errBusy (g h : Engine) : (g.commitRound h).errBusy = h.errBusy := by
  unfold Engine.commitRound; split <;> rfl
@[simp] theorem Engine.commitRound_errCmd (g h : Engine) : (g.commitRound h).errCmd = h.errCmd := by
  unfold Engine.commitRound; split <;> rfl

/-- A round neither reads nor writes ERR_BUSY. -/
theorem Engine.round_withErrBusy (g : Engine) (e : Bool) :
    Engine.round { g with errBusy := e } = { g.round with errBusy := e } := by
  obtain ⟨key, data, sum, rc, mode, busy, done, keyWr, e1, e2, e3⟩ := g
  cases mode <;>
    simp [Engine.round, Engine.encRound, Engine.decRound, Engine.complete, Engine.completes] <;> split <;> rfl

/-- The commit over a host part that changed ERR_BUSY at most is the round with that ERR_BUSY. -/
theorem Engine.commitRound_withErrBusy (g : Engine) (e : Bool) (hb : g.busy = true) :
    g.commitRound { g with errBusy := e } = { g.round with errBusy := e } := by
  rw [Engine.commitRound_busy _ hb]
  apply Engine.ext_registers <;> simp

/-! ### the whole functions, unrolled at their last round -/

theorem ofNat_succ_mul (n : Nat) (w : Word) : BitVec.ofNat 32 (n + 1) * w = BitVec.ofNat 32 n * w + w := by
  rw [BitVec.ofNat_add, show BitVec.ofNat 32 1 = (1 : Word) from rfl]
  ring

theorem teaEncLoop_last (k : Key) (n : Nat) (s : Word) (b : Block) :
    teaEncLoop k (n + 1) s b =
      encUpdate k (s + BitVec.ofNat 32 (n + 1) * Config.delta) (teaEncLoop k n s b) := by
  induction n generalizing s b with
  | zero => simp [teaEncLoop]
  | succ n ih =>
    have hs : s + Config.delta + BitVec.ofNat 32 (n + 1) * Config.delta
        = s + BitVec.ofNat 32 (n + 1 + 1) * Config.delta := by
      rw [ofNat_succ_mul (n + 1)]; ring
    rw [teaEncLoop, ih, hs]
    rfl

theorem teaDecLoop_last (k : Key) (n : Nat) (s : Word) (b : Block) :
    teaDecLoop k (n + 1) s b =
      decUpdate k (s - BitVec.ofNat 32 n * Config.delta) (teaDecLoop k n s b) := by
  induction n generalizing s b with
  | zero => simp [teaDecLoop]
  | succ n ih =>
    have hs : s - Config.delta - BitVec.ofNat 32 n * Config.delta
        = s - BitVec.ofNat 32 (n + 1) * Config.delta := by
      rw [ofNat_succ_mul]; ring
    rw [teaDecLoop, ih, hs]
    rfl

end Sys2Proof.Machine
end

