-- ==== Sys2Proof/Laws/Flags.lean ====
section
/-! SUPPORT. The STATUS word bit by bit, and KEY_VALID as a comparison. -/

namespace Sys2Proof.Machine

open Sys2Proof

/-- A bit of the STATUS word, from bit 0 upward. -/
theorem Engine.status_getLsbD (g : Engine) (j : Nat) (hj : j < 32) :
    g.status.getLsbD j =
      if j < 1 then g.busy
      else if j < 2 then g.done
      else if j < 3 then g.keyValid
      else if j < 4 then g.mode.bit
      else if j < 5 then g.errNoKey
      else if j < 6 then g.errBusy
      else if j < 7 then g.errCmd
      else if j < 8 then false
      else if j < 14 then g.rc.getLsbD (j - 8)
      else if j < 16 then false
      else g.keyWr.getLsbD (j - 16) := by
  have hs : g.status.getLsbD j = BitVec.getLsbD (w := 4 + 2 + 6 + 1 + 1 + 1 + 1 + 1 + 1 + 1 + 1)
      (g.keyWr ++ 0b00#2 ++ g.rc ++ 0b0#1 ++ BitVec.ofBool g.errCmd ++ BitVec.ofBool g.errBusy
        ++ BitVec.ofBool g.errNoKey ++ BitVec.ofBool g.mode.bit ++ BitVec.ofBool g.keyValid
        ++ BitVec.ofBool g.done ++ BitVec.ofBool g.busy) j := by
    show (BitVec.setWidth 32 _).getLsbD j = _
    rw [BitVec.getLsbD_setWidth, decide_eq_true hj, Bool.true_and]
  have hn : ∀ k, (0b00#2).getLsbD k = false := fun k => BitVec.getLsbD_zero
  have hz : ∀ k, (0b0#1).getLsbD k = false := fun k => BitVec.getLsbD_zero
  rw [hs]
  simp only [BitVec.getLsbD_append, BitVec.getLsbD_ofBool, hn, hz]
  have hcase : j = 0 ∨ j = 1 ∨ j = 2 ∨ j = 3 ∨ j = 4 ∨ j = 5 ∨ j = 6 ∨ j = 7 ∨ 8 ≤ j := by omega
  rcases hcase with rfl | rfl | rfl | rfl | rfl | rfl | rfl | rfl | h8
  all_goals try rfl
  have e : j - 1 - 1 - 1 - 1 - 1 - 1 - 1 - 1 = j - 8 := by omega
  have e1 : ¬ j < 1 := by omega
  have e2 : ¬ j - 1 < 1 := by omega
  have e3 : ¬ j - 1 - 1 < 1 := by omega
  have e4 : ¬ j - 1 - 1 - 1 < 1 := by omega
  have e5 : ¬ j - 1 - 1 - 1 - 1 < 1 := by omega
  have e6 : ¬ j - 1 - 1 - 1 - 1 - 1 < 1 := by omega
  have e7 : ¬ j - 1 - 1 - 1 - 1 - 1 - 1 < 1 := by omega
  have e8 : ¬ j - 1 - 1 - 1 - 1 - 1 - 1 - 1 < 1 := by omega
  simp only [e1, e2, e3, e4, e5, e6, e7, e8, if_false, e]
  rw [if_neg (by omega : ¬ j < 2), if_neg (by omega : ¬ j < 3), if_neg (by omega : ¬ j < 4),
    if_neg (by omega : ¬ j < 5), if_neg (by omega : ¬ j < 6), if_neg (by omega : ¬ j < 7),
    if_neg (by omega : ¬ j < 8)]
  by_cases h14 : j < 14
  · rw [if_pos h14, if_pos (by omega)]
  · rw [if_neg h14, if_neg (by omega)]
    by_cases h16 : j < 16
    · rw [if_pos h16, if_pos (by omega)]
    · rw [if_neg h16, if_neg (by omega), show j - 8 - 6 - 2 = j - 16 by omega]

theorem Engine.keyValid_eq (g : Engine) : g.keyValid = (g.keyWr == 0b1111#4) := by
  unfold Engine.keyValid
  generalize g.keyWr = k
  revert k
  decide

theorem Mode.bit_eq (m : Mode) : m.bit = (m == .dec) := by cases m <;> rfl

end Sys2Proof.Machine
end

