-- ==== Sys2Proof/Laws/PerInstr.lean ====
section
/-! SUPPORT. The family EncodeRow: the encoding of every instruction lies in its own row of `opcode_table.json`
(`30_encoding.md` R48, R59), one lemma per constructor. -/

namespace Sys2Proof.Laws.EncodeRow

open Sys2Proof

/-- The encoded instruction matches its row of the table. -/
def Statement (i : Instr) : Prop := (opcodeRow i).holds (encode i) = true

theorem rdKey (n : KeyReg) : Statement (.rdKey n) := by cases n <;> rfl

theorem rdData (n : DataReg) : Statement (.rdData n) := by cases n <;> rfl

theorem rdCtrl : Statement .rdCtrl := rfl

theorem rdStatus : Statement .rdStatus := rfl

theorem wrKey (n : KeyReg) (d : Word) : Statement (.wrKey n d) := by
  have h := transactionWord_mask true n.addr d 0xC00000000#36 0b1100#4 (by decide)
  simp only [Statement, OpcodeRow.holds, opcodeRow, encode, h]
  cases n <;> decide

theorem wrData (n : DataReg) (d : Word) : Statement (.wrData n d) := by
  have h := transactionWord_mask true n.addr d 0xE00000000#36 0b1110#4 (by decide)
  simp only [Statement, OpcodeRow.holds, opcodeRow, encode, h]
  cases n <;> decide

theorem wrCtrlNop (clr keyclr : Bool) : Statement (.wrCtrlNop clr keyclr) := by
  cases clr <;> cases keyclr <;> rfl

theorem wrCtrlEnc (clr keyclr : Bool) : Statement (.wrCtrlEnc clr keyclr) := by
  cases clr <;> cases keyclr <;> rfl

theorem wrCtrlDec (clr keyclr : Bool) : Statement (.wrCtrlDec clr keyclr) := by
  cases clr <;> cases keyclr <;> rfl

theorem wrCtrlIllegal (d : Word) : Statement (.wrCtrlIllegal d) := by
  have h := transactionWord_mask true 6#3 d 0xF00000000#36 0b1111#4 (by decide)
  simp only [Statement, OpcodeRow.holds, opcodeRow, encode, h]
  decide

theorem wrStatus (d : Word) : Statement (.wrStatus d) := by
  have h := transactionWord_mask true 7#3 d 0xF00000000#36 0b1111#4 (by decide)
  simp only [Statement, OpcodeRow.holds, opcodeRow, encode, h]
  decide

end Sys2Proof.Laws.EncodeRow
end

