-- ==== Sys2Proof/Laws/Step.lean ====
section
/-! SUPPORT. What one clock cycle can do, said once: it always answers a next state, built from the transaction on the ports
and the engine's round. -/

namespace Sys2Proof.Machine

open Sys2Proof

/-- The engine after the host's part of a cycle with the input ports `c`. -/
def BusCycle.hostEngine (c : BusCycle) (g : Engine) : Engine :=
  if c.sel then Instr.hostEngine (decode c.word) g else g

/-- What the host's part of a cycle drives on `rdata`. -/
def BusCycle.answer (c : BusCycle) (g : Engine) : Word :=
  if c.sel then Instr.answer (decode c.word) g else 0#32

/-- The engine after the closing edge of a cycle with the input ports `c`. -/
def BusCycle.nextEngine (c : BusCycle) (g : Engine) : Engine :=
  if c.rstN then g.commitRound (c.hostEngine g) else Engine.reset

theorem hostPart_eq (c : BusCycle) (s : State) :
    hostPart c s = .next { s with eng := c.hostEngine s.eng, rdata := c.answer s.eng } := by
  unfold hostPart BusCycle.hostEngine BusCycle.answer
  split
  · exact exec_eq _ _
  · rfl

/-- Every cycle answers a next state, and this is the one. -/
theorem step_eq (s : State) :
    step s = .next ⟨s.ports.nextEngine s.eng, s.ports.answer s.eng, s.bus.tail⟩ := by
  unfold step clockCycle
  rw [hostPart_eq]
  cases h : s.ports.rstN <;>
    simp [State.closeEdge, BusCycle.nextEngine, h, State.advanceBus]

theorem step_next_iff (s t : State) :
    step s = .next t ↔ t = ⟨s.ports.nextEngine s.eng, s.ports.answer s.eng, s.bus.tail⟩ := by
  rw [step_eq]
  exact ⟨fun h => (Host.Outcome.next.inj h).symm, fun h => by rw [h]⟩

theorem BusCycle.nextEngine_reset {c : BusCycle} (g : Engine) (h : c.rstN = false) :
    c.nextEngine g = Engine.reset := by simp [BusCycle.nextEngine, h]

theorem BusCycle.nextEngine_run {c : BusCycle} (g : Engine) (h : c.rstN = true) :
    c.nextEngine g = g.commitRound (c.hostEngine g) := by simp [BusCycle.nextEngine, h]

/-- In a cycle that starts busy the host's part changes ERR_BUSY at most. -/
theorem BusCycle.hostEngine_busy_cases (c : BusCycle) {g : Engine} (hb : g.busy = true) :
    c.hostEngine g = g ∨ c.hostEngine g = g.raise .busy := by
  unfold BusCycle.hostEngine
  split
  · exact (Instr.hostEngine_busy_cases _ hb).imp id And.right
  · exact .inl rfl

/-- A cycle without reset that starts busy performs the round, and sets ERR_BUSY at most besides. -/
theorem BusCycle.nextEngine_busy {c : BusCycle} {g : Engine} (hr : c.rstN = true) (hb : g.busy = true) :
    ∃ e, c.nextEngine g = { g.round with errBusy := e } := by
  rw [BusCycle.nextEngine_run _ hr]
  rcases BusCycle.hostEngine_busy_cases c hb with h | h <;> rw [h]
  · exact ⟨g.errBusy, Engine.commitRound_withErrBusy g g.errBusy hb⟩
  · exact ⟨true, Engine.commitRound_withErrBusy g true hb⟩

/-- A cycle that carries a transaction. -/
theorem State.carries_hostEngine {s : State} {i : Instr} (h : s.carries i) (g : Engine) :
    s.ports.hostEngine g = Instr.hostEngine i g := by
  obtain ⟨-, hsel, hdec⟩ := h
  simp [BusCycle.hostEngine, hsel, hdec]

theorem State.ports_cons (g : Engine) (r : Word) (c : BusCycle) (cs : List BusCycle) :
    State.ports ⟨g, r, c :: cs⟩ = c := rfl

theorem State.ports_nil (g : Engine) (r : Word) : State.ports ⟨g, r, []⟩ = BusCycle.idle := rfl

/-- The next cycle is no reset when none of the next `n + 1` is. -/
theorem noReset_ports {n : Nat} {s : State} (h : noReset (n + 1) s.bus) : s.ports.rstN = true := by
  unfold State.ports
  cases hb : s.bus with
  | nil => rfl
  | cons c cs => exact h c (by simp [hb])

theorem noReset_tail {n : Nat} {bus : List BusCycle} (h : noReset (n + 1) bus) : noReset n bus.tail := by
  intro c hc
  cases bus with
  | nil => simp at hc
  | cons d ds => exact h c (by simpa using .inr hc)

end Sys2Proof.Machine
end

