-- ==== Sys2Proof/Laws/Run.lean ====
section
/-! SUPPORT. Runs of several cycles: they never stop, and they split at any cycle. -/

namespace Sys2Proof.Machine

open Sys2Proof

/-- The state after `n` cycles. -/
def State.after : Nat → State → State
  | 0, s => s
  | n + 1, s => State.after n ⟨s.ports.nextEngine s.eng, s.ports.answer s.eng, s.bus.tail⟩

/-- The first cycle of a run. -/
theorem run_succ_of_next (M : Host.Core) (n : Nat) {s t : M.State} (h : M.step s = .next t) :
    M.run (n + 1) s = M.run n t := by
  simp only [Host.Core.run, h]

/-- A run answers the state after its cycles. -/
theorem run_eq (n : Nat) (s : State) : Host.Core.run Sys2Proof.core n s = .next (State.after n s) := by
  induction n generalizing s with
  | zero => rfl
  | succ n ih =>
    exact (run_succ_of_next Sys2Proof.core n (step_eq s)).trans (ih _)

theorem State.after_add (m n : Nat) (s : State) : State.after (m + n) s = State.after n (State.after m s) := by
  induction m generalizing s with
  | zero => rw [Nat.zero_add]; rfl
  | succ m ih => rw [Nat.succ_add]; exact ih _

/-- One more cycle. -/
theorem State.after_succ (n : Nat) (s : State) :
    State.after (n + 1) s =
      ⟨(State.after n s).ports.nextEngine (State.after n s).eng, (State.after n s).ports.answer (State.after n s).eng,
        (State.after n s).bus.tail⟩ := State.after_add n 1 s

theorem State.after_bus (n : Nat) (s : State) : (State.after n s).bus = s.bus.drop n := by
  induction n with
  | zero => rfl
  | succ n ih => rw [State.after_succ, ih, List.tail_drop]

/-- The ports in the cycle after `n` cycles. -/
theorem State.after_ports (n : Nat) (s : State) : (State.after n s).ports = s.bus.getD n BusCycle.idle := by
  unfold State.ports
  rw [State.after_bus, List.headD_eq_head?_getD, List.head?_drop, List.getD_eq_getElem?_getD]

/-- With no reset among the next `n` cycles, none of them is one. -/
theorem noReset_getD {n : Nat} {bus : List BusCycle} (h : noReset n bus) {m : Nat} (hm : m < n) :
    (bus.getD m BusCycle.idle).rstN = true := by
  rw [List.getD_eq_getElem?_getD]
  cases hb : bus[m]? with
  | none => rfl
  | some c =>
    refine h c (List.mem_iff_getElem?.2 ⟨m, ?_⟩)
    rw [List.getElem?_take, if_pos hm, hb]

end Sys2Proof.Machine
end

