-- ==== Sys2Proof/Tests/Slice0.lean ====
section
/-! SUPPORT. The model's own tests: the well-formedness smoke test, words written out from the spec's encodings, one
transaction or one cycle on a small state, and a witness for every statement with hypotheses. Expected values are those of
`95_test_vectors.md`; the id of the vector stands at each test. -/

namespace Sys2Proof.Tests

open Sys2Proof Sys2Proof.Machine

/-! ### Small states -/

/-- The next state of an outcome, if it is one. -/
def nextOf (o : Host.Outcome State Fault Refusal) : Option State :=
  match o with
  | .next t => some t
  | .fault _ => none
  | .refused _ => none

/-- STATUS after one transaction. -/
def statusAfter (i : Instr) (s : State) : Option Word := (nextOf (exec i s)).map (fun t => t.eng.status)

/-- `rdata` after one transaction. -/
def rdataAfter (i : Instr) (s : State) : Option Word := (nextOf (exec i s)).map (fun t => t.rdata)

/-- `s` with the given transactions on the bus of the coming cycles. -/
def drive (tws : List TransactionWord) (s : State) : State := { s with bus := tws.map BusCycle.transact }

/-- `s` with a reset in the coming cycle, which also carries `tw`. -/
def driveReset (tw : TransactionWord) (s : State) : State :=
  { s with bus := [{ BusCycle.transact tw with rstN := false }] }

/-- The state S_A of V-CTRL: a completed encrypt under the zero key, with ERR_CMD. -/
def stateA : State :=
  { State.reset with eng := { Engine.reset with
      keyWr := 0xF#4, data := ⟨0x41EA3A0A#32, 0x94BAA940#32⟩, sum := 0xC6EF3720#32, rc := 32#6,
      done := true, errCmd := true } }

/-- Idle, the key (1, 2, 3, 4) written, the block of V-ENC-8, as in program P3. -/
def keyed : State :=
  { State.reset with eng := { Engine.reset with
      key := ⟨1#32, 2#32, 3#32, 4#32⟩, keyWr := 0xF#4, data := ⟨0x11111111#32, 0#32⟩ } }

/-- Busy under the key (1, 2, 3, 4), `r` rounds of an operation of mode `m` done. -/
def running (m : Mode) (r : Nat) : State :=
  { keyed with eng := { keyed.eng with
      busy := true, mode := m, rc := BitVec.ofNat 6 r, sum := scheduledSum m r } }

/-! ### Well-formedness smoke test (R50, R100: the words of V-CTRL) -/

/-- A legal command word is no operand of WR_CTRL.ILLEGAL. -/
theorem test_wellFormed_refuses_legal_word : (Instr.wrCtrlIllegal 0x00000001#32).wellFormed = false := by decide

/-- The highest legal word, DEC|CLR|KEYCLR, is refused too. -/
theorem test_wellFormed_refuses_highest_legal_word :
    (Instr.wrCtrlIllegal 0x0000000E#32).wellFormed = false := by decide

/-- The four kinds of illegal word of V-CTRL are admitted. -/
theorem test_wellFormed_admits_illegal_words :
    (Instr.wrCtrlIllegal 0x00000003#32).wellFormed = true ∧ (Instr.wrCtrlIllegal 0x0000000F#32).wellFormed = true ∧
    (Instr.wrCtrlIllegal 0x00000010#32).wellFormed = true ∧ (Instr.wrCtrlIllegal 0x80000001#32).wellFormed = true := by
  decide

/-! ### Words written out from R47, R48 and R50: {WE, A[2:0], D[31:0]} -/

/-- RD_KEYn: 0, 0n. P4 line 22 is KEY0, V-BUS-3 is KEY2. -/
theorem test_decode_rdKey :
    decode (0b0#1 ++ 0b000#3 ++ 0x00000000#32) = .rdKey .k0 ∧ decode (0b0#1 ++ 0b001#3 ++ 0x00000000#32) = .rdKey .k1 ∧
    decode (0b0#1 ++ 0b010#3 ++ 0x00000000#32) = .rdKey .k2 ∧ decode (0b0#1 ++ 0b011#3 ++ 0xFFFFFFFF#32) = .rdKey .k3 := by
  decide

/-- RD_DATAn: 0, 10n (P1 lines 10, 11). -/
theorem test_decode_rdData :
    decode (0b0#1 ++ 0b100#3 ++ 0x00000000#32) = .rdData .v0 ∧ decode (0b0#1 ++ 0b101#3 ++ 0x00000000#32) = .rdData .v1 := by
  decide

/-- RD_CTRL: 0, 110 (V-BUS-5). -/
theorem test_decode_rdCtrl : decode (0b0#1 ++ 0b110#3 ++ 0x00000000#32) = .rdCtrl := by decide

/-- RD_STATUS: 0, 111, any D (V-BUS-1, V-BUS-7). -/
theorem test_decode_rdStatus :
    decode (0b0#1 ++ 0b111#3 ++ 0x00000000#32) = .rdStatus ∧ decode 0x7FFFFFFFF#36 = .rdStatus := by decide

/-- WR_KEYn: 1, 0n, D (P4 lines 7 to 10, V-BUS-2). -/
theorem test_decode_wrKey :
    decode 0x800010203#36 = .wrKey .k0 0x00010203#32 ∧ decode 0x904050607#36 = .wrKey .k1 0x04050607#32 ∧
    decode (0b1#1 ++ 0b010#3 ++ 0xDEADBEEF#32) = .wrKey .k2 0xDEADBEEF#32 ∧
    decode 0xB0C0D0E0F#36 = .wrKey .k3 0x0C0D0E0F#32 := by decide

/-- WR_DATAn: 1, 10n, D (P2 lines 5, 6). -/
theorem test_decode_wrData :
    decode 0xC00010203#36 = .wrData .v0 0x00010203#32 ∧
    decode (0b1#1 ++ 0b101#3 ++ 0x04050607#32) = .wrData .v1 0x04050607#32 := by decide

/-- WR_CTRL.NOP: 1, 110, RSV = 0, KEYCLR, CLR, 00 (P3 line 18, P4 line 5, V-CTRL). -/
theorem test_decode_wrCtrlNop :
    decode (0b1#1 ++ 0b110#3 ++ 0x0000000#28 ++ 0b0#1 ++ 0b0#1 ++ 0b00#2) = .wrCtrlNop false false ∧
    decode 0xE00000004#36 = .wrCtrlNop true false ∧ decode 0xE00000008#36 = .wrCtrlNop false true ∧
    decode 0xE0000000C#36 = .wrCtrlNop true true := by decide

/-- WR_CTRL.ENC (P1 line 7, P2 line 7, V-CTRL). -/
theorem test_decode_wrCtrlEnc :
    decode (0b1#1 ++ 0b110#3 ++ 0x0000000#28 ++ 0b0#1 ++ 0b0#1 ++ 0b01#2) = .wrCtrlEnc false false ∧
    decode 0xE00000005#36 = .wrCtrlEnc true false ∧ decode 0xE00000009#36 = .wrCtrlEnc false true ∧
    decode 0xE0000000D#36 = .wrCtrlEnc true true := by decide

/-- WR_CTRL.DEC (P2 line 11, V-CTRL). -/
theorem test_decode_wrCtrlDec :
    decode (0b1#1 ++ 0b110#3 ++ 0x0000000#28 ++ 0b0#1 ++ 0b0#1 ++ 0b10#2) = .wrCtrlDec false false ∧
    decode 0xE00000006#36 = .wrCtrlDec true false ∧ decode 0xE0000000A#36 = .wrCtrlDec false true ∧
    decode 0xE0000000E#36 = .wrCtrlDec true true := by decide

/-- WR_CTRL.ILLEGAL: CMD = 11, RSV bit 4, RSV bit 31 (P3 line 9, V-CTRL). -/
theorem test_decode_wrCtrlIllegal :
    decode (0b1#1 ++ 0b110#3 ++ 0x0000000#28 ++ 0b0#1 ++ 0b0#1 ++ 0b11#2) = .wrCtrlIllegal 0x00000003#32 ∧
    decode 0xE00000010#36 = .wrCtrlIllegal 0x00000010#32 ∧ decode 0xE80000001#36 = .wrCtrlIllegal 0x80000001#32 := by
  decide

/-- WR_STATUS: 1, 111, any D (V-BUS-6). -/
theorem test_decode_wrStatus : decode (0b1#1 ++ 0b111#3 ++ 0xFFFFFFFF#32) = .wrStatus 0xFFFFFFFF#32 := by decide

/-- A number that does not fit 36 bits is rejected by name; the largest word is not (R47). -/
theorem test_decodeNumber_width :
    decodeNumber 0x1000000000 = .error .widerThanTransactionWord ∧
    decodeNumber 0xFFFFFFFFF = .ok (.wrStatus 0xFFFFFFFF#32) := by
  constructor <;> rfl

/-- The host's question on a row's bits, at the table's 40 bits and at a shorter count (`opcode_table.json`). -/
theorem test_decodeTableWord :
    decodeTableWord 40 0x700000000 = some .rdStatus ∧ decodeTableWord 40 0xE00000001 = some (.wrCtrlEnc false false) ∧
    decodeTableWord 8 0x00 = some (.rdKey .k0) := by decide

/-- The encoder on the words of P1, P2 and P4. -/
theorem test_encode_program_words :
    encode (.wrKey .k3 0#32) = 0xB00000000#36 ∧ encode (.wrData .v1 0x04050607#32) = 0xD04050607#36 ∧
    encode (.wrCtrlEnc true false) = 0xE00000005#36 ∧ encode (.rdData .v1) = 0x500000000#36 := by decide

/-- No two rows of the table share a word, WR_CTRL.ILLEGAL apart, which is the rest of the CTRL words (R48, R59). -/
theorem test_rows_do_not_overlap :
    [Instr.rdKey .k0, .rdData .v0, .rdCtrl, .rdStatus, .wrKey .k0 0#32, .wrData .v0 0#32, .wrCtrlNop false false,
      .wrCtrlEnc false false, .wrCtrlDec false false, .wrStatus 0#32].Pairwise
      (fun i j => (opcodeRow i).bits &&& (opcodeRow i).mask &&& (opcodeRow j).mask
        ≠ (opcodeRow j).bits &&& (opcodeRow i).mask &&& (opcodeRow j).mask) := by decide

/-! ### One transaction or one cycle (V-BUS, V-CTRL, V-RST, P3) -/

/-- V-BUS-3: RD_KEY2 after KEY2 was written. -/
theorem test_rdKey_is_zero : rdataAfter (.rdKey .k2) keyed = some 0x00000000#32 := by decide

/-- P1 lines 10 and 11. -/
theorem test_rdData : rdataAfter (.rdData .v0) stateA = some 0x41EA3A0A#32 ∧
    rdataAfter (.rdData .v1) stateA = some 0x94BAA940#32 := by decide

/-- V-BUS-5, with STATUS nonzero. -/
theorem test_rdCtrl_is_zero : rdataAfter .rdCtrl stateA = some 0x00000000#32 := by decide

/-- V-BUS-1, and S_A's STATUS of V-CTRL. -/
theorem test_rdStatus : rdataAfter .rdStatus State.reset = some 0x00000000#32 ∧
    rdataAfter .rdStatus stateA = some 0x000F2046#32 := by decide

/-- P4 line 17: STATUS while busy, RC = 3. -/
theorem test_rdStatus_busy : rdataAfter .rdStatus (running .enc 3) = some 0x000F0305#32 := by decide

/-- V-BUS-2. -/
theorem test_wrKey : statusAfter (.wrKey .k2 0xDEADBEEF#32) State.reset = some 0x00040000#32 ∧
    (nextOf (exec (.wrKey .k2 0xDEADBEEF#32) State.reset)).map (fun t => t.eng.key)
      = some ⟨0#32, 0#32, 0xDEADBEEF#32, 0#32⟩ := by decide

/-- V-BUS-11: a dropped write and the completion at one edge. -/
theorem test_wrKey_busy_completion :
    (nextOf (step (drive [0x800000001#36] (running .enc 31)))).map
      (fun t => (t.eng.key, t.eng.busy, t.eng.done, t.eng.rc, t.eng.errBusy))
      = some (⟨1#32, 2#32, 3#32, 4#32⟩, false, true, 32#6, true) := by decide

/-- V-BUS-4. -/
theorem test_wrData : (nextOf (exec (.wrData .v1 0x04050607#32) State.reset)).map (fun t => t.eng.data)
    = some ⟨0x00000000#32, 0x04050607#32⟩ := by decide

/-- V-BUS-8: the write is dropped, the round of the same cycle is performed. From the start of V-ENC-8 its round 1 follows. -/
theorem test_wrData_busy :
    (nextOf (step (drive [0xC12345678#36] (running .enc 0)))).map (fun t => (t.eng.data, t.eng.errBusy))
      = some (⟨0xAF488ACB#32, 0xBC72EC6D#32⟩, true) := by decide

/-- V-BUS-6. -/
theorem test_wrStatus : statusAfter (.wrStatus 0xFFFFFFFF#32) stateA = some 0x000F2046#32 := by decide

/-- V-CTRL, the rows of CMD = 00. -/
theorem test_wrCtrlNop :
    statusAfter (.wrCtrlNop false false) stateA = some 0x000F2046#32 ∧
    statusAfter (.wrCtrlNop true false) stateA = some 0x000F2004#32 ∧
    statusAfter (.wrCtrlNop false true) stateA = some 0x00002042#32 ∧
    statusAfter (.wrCtrlNop true true) stateA = some 0x00002000#32 := by decide

/-- V-BUS-9: dropped while busy, nothing cleared (ERR_NOKEY stays). -/
theorem test_wrCtrlNop_busy :
    statusAfter (.wrCtrlNop true false)
      { running .enc 3 with eng := { (running .enc 3).eng with errNoKey := true } } = some 0x000F0335#32 := by decide

/-- V-CTRL, the rows of CMD = 01. -/
theorem test_wrCtrlEnc :
    statusAfter (.wrCtrlEnc false false) stateA = some 0x000F0045#32 ∧
    statusAfter (.wrCtrlEnc true false) stateA = some 0x000F0005#32 ∧
    statusAfter (.wrCtrlEnc false true) stateA = some 0x00002050#32 ∧
    statusAfter (.wrCtrlEnc true true) stateA = some 0x00002010#32 := by decide

/-- V-CTRL, the last paragraph: from reset, ENC, ENC|CLR and ENC|KEYCLR are refused. -/
theorem test_wrCtrlEnc_from_reset :
    statusAfter (.wrCtrlEnc false false) State.reset = some 0x00000010#32 ∧
    statusAfter (.wrCtrlEnc true false) State.reset = some 0x00000010#32 ∧
    statusAfter (.wrCtrlEnc false true) State.reset = some 0x00000010#32 := by decide

/-- V-CTRL, the rows of CMD = 10. -/
theorem test_wrCtrlDec :
    statusAfter (.wrCtrlDec false false) stateA = some 0x000F004D#32 ∧
    statusAfter (.wrCtrlDec true false) stateA = some 0x000F000D#32 ∧
    statusAfter (.wrCtrlDec false true) stateA = some 0x00002050#32 ∧
    statusAfter (.wrCtrlDec true true) stateA = some 0x00002010#32 := by decide

/-- V-CTRL, the last paragraph, and the sum a decrypt starts from (V-DEC-1, RC 0). -/
theorem test_wrCtrlDec_reset_and_sum :
    statusAfter (.wrCtrlDec false false) State.reset = some 0x00000010#32 ∧
    (nextOf (exec (.wrCtrlDec false false) stateA)).map (fun t => t.eng.sum) = some 0xC6EF3720#32 := by decide

/-- P3 line 9 without the earlier error, and V-CTRL's CLR in an illegal word, which is not performed. -/
theorem test_wrCtrlIllegal :
    statusAfter (.wrCtrlIllegal 0x00000003#32) keyed = some 0x000F0044#32 ∧
    statusAfter (.wrCtrlIllegal 0x00000007#32) stateA = some 0x000F2046#32 := by decide

/-- V-BUS-10: while busy ERR_BUSY, not ERR_CMD. -/
theorem test_wrCtrlIllegal_busy :
    statusAfter (.wrCtrlIllegal 0x00000003#32) (running .enc 3) = some 0x000F0325#32 := by decide

/-- V-BUS-12: an idle cycle. -/
theorem test_idle_cycle : nextOf (step stateA) = some stateA := by decide

/-- V-RST-1, with a write in the reset cycle. -/
theorem test_reset_aborts :
    (nextOf (step (driveReset 0xC12345678#36 (running .enc 17)))).map (fun t => (t.eng.status, t.eng.data))
      = some (0x00000000#32, ⟨0#32, 0#32⟩) := by decide

/-- V-RST-2. -/
theorem test_reset_beats_start :
    (nextOf (step (driveReset 0xE00000001#36 keyed))).map (fun t => t.eng.status) = some 0x00000000#32 := by decide

/-- A word placed on the bus right after reset runs in the first cycle (V-BUS-2's). -/
theorem test_first_cycle_after_reset :
    (nextOf (step (State.reset.withFetchWord 40 0xADEADBEEF))).map (fun t => (t.eng.status, t.bus))
      = some (0x00040000#32, []) := by decide

/-! ### The cipher (V-F, V-ENC, V-DEC, V-SUM) -/

/-- V-F rows 1 to 9. -/
theorem test_roundF :
    roundF 0#32 0x9E3779B9#32 0#32 0#32 = 0x9E3779B9#32 ∧
    roundF 0xFFFFFFFF#32 0#32 0#32 0#32 = 0x07FFFFF0#32 ∧
    roundF 0xFFFFFFFF#32 1#32 1#32 1#32 = 0xF7FFFFF1#32 ∧
    roundF 0x80000000#32 0x80000000#32 0#32 0#32 = 0x04000000#32 ∧
    roundF 0x0000001F#32 0#32 0#32 0#32 = 0x000001EF#32 ∧
    roundF 0x10000000#32 0#32 0#32 0#32 = 0x10800000#32 ∧
    roundF 0xFFFFFFFF#32 0xFFFFFFFF#32 0xFFFFFFFF#32 0xFFFFFFFF#32 = 0x07FFFFEF#32 ∧
    roundF 0x12345678#32 0x9E3779B9#32 0xA5A5A5A5#32 0x5A5A5A5A#32 = 0x226B2019#32 ∧
    roundF 0x9E3779B9#32 0x9E3779B9#32 0#32 0#32 = 0xDBE8D32F#32 := by decide

/-- V-ENC-1 and V-ENC-2. -/
theorem test_teaEnc_zero_key :
    teaEnc ⟨0#32, 0#32, 0#32, 0#32⟩ ⟨0#32, 0#32⟩ = ⟨0x41EA3A0A#32, 0x94BAA940#32⟩ ∧
    teaEnc ⟨0#32, 0#32, 0#32, 0#32⟩ ⟨0x00010203#32, 0x04050607#32⟩ = ⟨0xE22F43E2#32, 0x2253D879#32⟩ := by decide

/-- V-ENC-4: every key word different, additions that wrap. -/
theorem test_teaEnc_wraps :
    teaEnc ⟨0xFFFFFFFF#32, 0xFFFFFFFE#32, 0x80000000#32, 0x7FFFFFFF#32⟩ ⟨0xFFFFFFFF#32, 0x00000001#32⟩
      = ⟨0xDBDD0029#32, 0xADC6A2D0#32⟩ := by decide

/-- V-ENC-7: the four key words are used in their places. -/
theorem test_teaEnc_key_order :
    teaEnc ⟨0x01234567#32, 0x89ABCDEF#32, 0xFEDCBA98#32, 0x76543210#32⟩ ⟨0x01234567#32, 0x89ABCDEF#32⟩
      = ⟨0x17B5BA51#32, 0x98581091#32⟩ := by decide

/-- V-DEC-8 and V-DEC-6. -/
theorem test_teaDec :
    teaDec ⟨0xFFFFFFFF#32, 0xFFFFFFFE#32, 0x80000000#32, 0x7FFFFFFF#32⟩ ⟨0xFFFFFFFF#32, 0x00000001#32⟩
      = ⟨0xB83D4A0C#32, 0x4B38165B#32⟩ ∧
    teaDec ⟨0#32, 0#32, 0#32, 0#32⟩ ⟨0#32, 0#32⟩ = ⟨0x1423FF6D#32, 0x9216EF3A#32⟩ := by decide +kernel

/-- One decrypt round: V-DEC-1, RC 1. -/
theorem test_decrypt_round :
    (nextOf (step { stateA with eng := { stateA.eng with
        busy := true, done := false, mode := .dec, rc := 0#6, sum := 0xC6EF3720#32 } })).map
      (fun t => (t.eng.data, t.eng.sum, t.eng.rc))
      = some (⟨0xFA8572E9#32, 0x804528E6#32⟩, 0x28B7BD67#32, 1#6) := by decide

/-- V-SUM rows 1, 17 and 32 of the encrypt column; the decrypt sum before rounds 1 and 32. -/
theorem test_scheduledSum :
    scheduledSum .enc 1 = 0x9E3779B9#32 ∧ scheduledSum .enc 17 = 0x81AF1549#32 ∧
    scheduledSum .enc 32 = 0xC6EF3720#32 ∧ scheduledSum .dec 0 = 0xC6EF3720#32 ∧
    scheduledSum .dec 31 = 0x9E3779B9#32 := by decide

/-! ### Witnesses: the hypotheses of each statement hold together -/

theorem test_witness_DecodeEncodeRoundTrip :
    (Instr.rdKey .k3).wellFormed = true ∧ (Instr.wrKey .k0 0xFFFFFFFF#32).wellFormed = true ∧
    (Instr.wrCtrlDec true true).wellFormed = true ∧ (Instr.wrCtrlIllegal 0x00000010#32).wellFormed = true := by decide

/-- A word that matches both its own row and the last one. -/
theorem test_witness_DecodeAgreesWithOpcodeTable :
    (opcodeRow (.wrCtrlEnc false false)).holds 0xE00000001#36 = true ∧
    (opcodeRow (.wrCtrlIllegal 0x3#32)).holds 0xE00000001#36 = true := by decide

theorem test_witness_ReadIgnoresDataField :
    (Instr.rdKey .k0).isWrite = false ∧ (Instr.rdStatus).isWrite = false := by decide

theorem test_witness_RdDataReturnsBlockWord : (drive [0x400000000#36] (running .enc 31)).carries (.rdData .v0) ∧
    (drive [0x500000000#36] (running .dec 0)).carries (.rdData .v1) := by
  unfold State.carries; decide

theorem test_witness_WrKeyStoresAndMarks : keyed.eng.busy = false ∧ (running .enc 0).eng.busy = true := by decide

theorem test_witness_WrDataStores : stateA.eng.busy = false ∧ (running .dec 31).eng.busy = true := by decide

theorem test_witness_WrStatusHasNoEffect : stateA.eng.busy = false ∧ (running .enc 31).eng.busy = true := by decide

theorem test_witness_WrKeyFrame :
    (∃ t, exec (.wrKey .k0 7#32) keyed = .next t) ∧ KeyReg.k3 ≠ KeyReg.k0 ∧ keyed.eng.busy = false ∧
    ∃ t, exec (.wrKey .k0 7#32) (running .enc 31) = .next t := by
  exact ⟨⟨_, rfl⟩, by decide, by decide, ⟨_, rfl⟩⟩

theorem test_witness_WrDataFrame :
    (∃ t, exec (.wrData .v0 7#32) keyed = .next t) ∧ DataReg.v1 ≠ DataReg.v0 ∧ keyed.eng.busy = false ∧
    ∃ t, exec (.wrData .v0 7#32) (running .enc 31) = .next t := by
  exact ⟨⟨_, rfl⟩, by decide, by decide, ⟨_, rfl⟩⟩

theorem test_witness_BusyWriteIsDropped :
    (Instr.wrCtrlNop true true).isWrite = true ∧ (Instr.wrCtrlIllegal 3#32).isWrite = true ∧
    (running .enc 0).eng.busy = true ∧ (Instr.rdData .v0).isWrite = false := by decide

theorem test_witness_NopWordPerformsOnlyItsFields :
    stateA.eng.busy = false ∧ (running .enc 3).eng.busy = true := by decide

theorem test_witness_EncStartIsAccepted : keyed.eng.busy = false ∧ keyed.eng.keyWr = 0b1111#4 := by decide

theorem test_witness_DecStartIsAccepted : stateA.eng.busy = false ∧ stateA.eng.keyWr = 0b1111#4 := by decide

/-- Three key words of four written; and a whole key with KEYCLR. -/
theorem test_witness_StartWithoutWholeKeyIsRefused :
    (∃ s : State, s.eng.busy = false ∧ s.eng.keyWr = 0b0111#4 ∧
      (s.eng.keyWr ≠ 0b1111#4 ∨ false = true) ∧
      (Instr.wrCtrlEnc true false = .wrCtrlEnc true false ∨ Instr.wrCtrlEnc true false = .wrCtrlDec true false)) ∧
    keyed.eng.busy = false ∧ (keyed.eng.keyWr ≠ 0b1111#4 ∨ true = true) ∧
    (Instr.wrCtrlDec false true = .wrCtrlEnc false true ∨ Instr.wrCtrlDec false true = .wrCtrlDec false true) := by
  refine ⟨⟨{ keyed with eng := { keyed.eng with keyWr := 0b0111#4 } }, ?_⟩, ?_⟩ <;> decide

/-- Each clause of R28's statement: a start with and without KEYCLR, a reset cycle, a write that sets a bit, a KEYCLR that
clears one. -/
theorem test_witness_StartIffKeyValid :
    ((Instr.wrCtrlEnc false false).isStart = true ∧ (Instr.wrCtrlDec true true).isStart = true ∧
      keyed.eng.busy = false ∧ (Instr.wrCtrlNop false true).hasKeyclr = true) ∧
    (driveReset 0#36 keyed).ports.rstN = false ∧
    (∃ t, step (drive [0x800000001#36] State.reset) = .next t ∧ (drive [0x800000001#36] State.reset).ports.rstN = true ∧
      t.eng.keyWr.getLsbD 0 ≠ (drive [0x800000001#36] State.reset).eng.keyWr.getLsbD 0) ∧
    ∃ t, step (drive [0xE0000000D#36] keyed) = .next t ∧ (drive [0xE0000000D#36] keyed).ports.rstN = true ∧
      t.eng.keyWr.getLsbD 3 ≠ (drive [0xE0000000D#36] keyed).eng.keyWr.getLsbD 3 := by
  exact ⟨by decide, by decide, ⟨_, rfl, by decide, by decide⟩, ⟨_, rfl, by decide, by decide⟩⟩

/-- CLR idle with a start accepted, with a start refused, with no start; CLR while busy. -/
theorem test_witness_ClrClearsDoneAndErrors :
    (Instr.wrCtrlEnc true false).hasClr = true ∧ (Instr.wrCtrlDec true true).hasClr = true ∧
    (Instr.wrCtrlNop true false).hasClr = true ∧ (Instr.wrCtrlNop true false).hasKeyclr = false ∧
    stateA.eng.busy = false ∧ (running .enc 0).eng.busy = true ∧ stateA.eng.errCmd = true := by decide

/-- The word, and then a start in the state it leaves and one with three key words written again. -/
theorem test_witness_KeyclrZeroesKey :
    (∃ t, exec (.wrCtrlNop false true) stateA = .next t ∧ t.eng.busy = false ∧ t.eng.keyWr = 0b0000#4 ∧
      t.eng.keyWr ≠ 0b1111#4) ∧ (Instr.wrCtrlDec false false).isStart = true ∧
    (Instr.wrCtrlEnc true true).hasKeyclr = true ∧ (Instr.wrCtrlEnc true true).isStart = true ∧
    (Instr.wrCtrlNop false true).hasKeyclr = true ∧ (Instr.wrCtrlNop false true).isStart = false ∧
    (Instr.wrCtrlNop false true).hasClr = false ∧ stateA.eng.busy = false := by
  exact ⟨⟨_, rfl, by decide⟩, by decide⟩

/-- Each disjunct at a boundary: bit 4, bit 31, and CMD = 0b11 with RSV = 0; idle and busy. -/
theorem test_witness_IllegalWordRaisesErrCmd :
    ((0x00000010#32).extractLsb' 4 28 ≠ 0#28 ∨ (0x00000010#32).extractLsb' 0 2 = 0b11#2) ∧
    ((0x80000001#32).extractLsb' 4 28 ≠ 0#28 ∨ (0x80000001#32).extractLsb' 0 2 = 0b11#2) ∧
    ((0x00000003#32).extractLsb' 4 28 ≠ 0#28 ∨ (0x00000003#32).extractLsb' 0 2 = 0b11#2) ∧
    keyed.eng.busy = false ∧ (running .enc 3).eng.busy = true := by decide

theorem test_witness_CommandWordFrame :
    (∃ t, exec (.wrCtrlEnc false false) keyed = .next t ∧ t.eng.busy ≠ keyed.eng.busy) ∧
    (∃ t, exec (.wrCtrlNop false false) stateA = .next t ∧ t.eng.busy = stateA.eng.busy ∧ t.eng.done = true ∧
      t.eng.errCmd = true) ∧
    ∃ t, exec (.wrCtrlDec true true) (running .enc 3) = .next t ∧ t.eng.busy = (running .enc 3).eng.busy := by
  exact ⟨⟨_, rfl, by decide⟩, ⟨_, rfl, by decide⟩, ⟨_, rfl, by decide⟩⟩

theorem test_witness_OneErrorPerTransaction :
    (drive [0x800000001#36] (running .enc 31)).carries (.wrKey .k0 1#32) ∧ (Instr.wrKey .k0 1#32).isWrite = true ∧
    (running .enc 31).eng.busy = true ∧ (running .enc 31).eng.rc = 31#6 ∧ keyed.eng.busy = false := by
  unfold State.carries; decide

/-- ERR_CMD set, a cycle that carries a start without CLR. -/
theorem test_witness_ErrorBitsAreSticky :
    (∃ t, step (drive [0xE00000001#36] stateA) = .next t) ∧ (drive [0xE00000001#36] stateA).ports.rstN = true ∧
    (¬ ((drive [0xE00000001#36] stateA).eng.busy = false ∧
      ∃ i : Instr, (drive [0xE00000001#36] stateA).carries i ∧ i.hasClr = true)) ∧
    (drive [0xE00000001#36] stateA).eng.errCmd = true := by
  refine ⟨⟨_, rfl⟩, by decide, ?_, by decide⟩
  rintro ⟨-, i, ⟨-, -, hi⟩, hc⟩
  have h : decode (drive [0xE00000001#36] stateA).ports.word = .wrCtrlEnc false false := by decide
  rw [h] at hi
  subst hi
  revert hc
  decide

/-- Each clause: reset, busy, an idle cycle, a transaction while idle. -/
theorem test_witness_DoneOutputRisesAndFalls :
    (∃ t, step (driveReset 0#36 stateA) = .next t ∧ (driveReset 0#36 stateA).ports.rstN = false) ∧
    (∃ t, step (running .enc 31) = .next t ∧ (running .enc 31).ports.rstN = true ∧ (running .enc 31).eng.busy = true) ∧
    (∃ t, step stateA = .next t ∧ stateA.ports.rstN = true ∧ stateA.eng.busy = false ∧ stateA.ports.sel = false) ∧
    ∃ t, step (drive [0xE00000004#36] stateA) = .next t ∧
      (drive [0xE00000004#36] stateA).carries (.wrCtrlNop true false) := by
  refine ⟨⟨_, rfl, by decide⟩, ⟨_, rfl, by decide⟩, ⟨_, rfl, by decide⟩, ⟨_, rfl, ?_⟩⟩
  unfold State.carries; decide

theorem test_witness_EncryptRoundEffect :
    (running .enc 0).eng.busy = true ∧ (running .enc 0).eng.mode = .enc ∧
    (running .enc 31).eng.busy = true ∧ (running .enc 31).eng.mode = .enc := by decide

theorem test_witness_DecryptRoundEffect :
    (running .dec 0).eng.busy = true ∧ (running .dec 0).eng.mode = .dec ∧
    (running .dec 31).eng.busy = true ∧ (running .dec 31).eng.mode = .dec := by decide

/-- A busy engine of either mode meets the invariant at its first and last round. -/
theorem test_running_meets_invariant :
    (running .enc 0).Inv ∧ (running .enc 31).Inv ∧ (running .dec 0).Inv ∧ (running .dec 31).Inv := by
  refine ⟨⟨?_, ?_, ?_, ?_, ?_, ?_, ?_⟩, ⟨?_, ?_, ?_, ?_, ?_, ?_, ?_⟩, ⟨?_, ?_, ?_, ?_, ?_, ?_, ?_⟩,
    ⟨?_, ?_, ?_, ?_, ?_, ?_, ?_⟩⟩ <;> first | decide | (intro n; cases n <;> decide)

theorem test_witness_CompletionEndsOperation :
    ((running .enc 31).eng.busy = true ∧ (running .enc 31).eng.rc = 31#6 ∧ (running .enc 31).eng.mode = .enc) ∧
    (running .enc 31).eng.Inv ∧
    ((running .dec 31).eng.busy = true ∧ (running .dec 31).eng.rc = 31#6 ∧ (running .dec 31).eng.mode = .dec) ∧
    (running .dec 31).eng.Inv ∧
    ((running .enc 30).eng.busy = true ∧ (running .enc 30).eng.rc ≠ 31#6) ∧ stateA.eng.busy = false := by
  refine ⟨by decide, test_running_meets_invariant.2.1, by decide, test_running_meets_invariant.2.2.2, by decide, by decide⟩

theorem test_witness_StepRunsDecodedTransaction :
    ((drive [0xADEADBEEF#36] keyed).carries (.wrKey .k2 0xDEADBEEF#32) ∧ keyed.eng.busy = false) ∧
    (drive [0x7FFFFFFFF#36] (running .enc 0)).carries .rdStatus ∧ (running .enc 0).eng.busy = true := by
  unfold State.carries; decide

theorem test_witness_PresentedWordRunsNext :
    decodeTableWord 40 0xE00000001 = some (.wrCtrlEnc false false) ∧ ∃ t, step (drive [0x700000000#36] keyed) = .next t :=
  ⟨by decide, ⟨_, rfl⟩⟩

theorem test_witness_IdleCycleOnlyRounds :
    (stateA.ports.rstN = true ∧ stateA.ports.sel = false ∧ stateA.eng.busy = false) ∧
    (running .dec 31).ports.rstN = true ∧ (running .dec 31).ports.sel = false ∧ (running .dec 31).eng.busy = true := by
  decide

theorem test_witness_TransactionAndRoundAreDisjoint :
    ((drive [0xC12345678#36] (running .enc 31)).carries (.wrData .v0 0x12345678#32) ∧
      (running .enc 31).eng.busy = true ∧
      (∃ h, exec (.wrData .v0 0x12345678#32) (drive [0xC12345678#36] (running .enc 31)).advanceBus = .next h) ∧
      ∃ t, step (drive [0xC12345678#36] (running .enc 31)) = .next t) ∧
    ((drive [0xC12345678#36] keyed).carries (.wrData .v0 0x12345678#32) ∧ keyed.eng.busy = false ∧
      (∃ h, exec (.wrData .v0 0x12345678#32) (drive [0xC12345678#36] keyed).advanceBus = .next h) ∧
      ∃ t, step (drive [0xC12345678#36] keyed) = .next t) := by
  unfold State.carries
  exact ⟨⟨by decide, by decide, ⟨_, rfl⟩, ⟨_, rfl⟩⟩, ⟨by decide, by decide, ⟨_, rfl⟩, ⟨_, rfl⟩⟩⟩

theorem test_witness_ResetCycleRestoresResetValues :
    (driveReset 0xE00000001#36 keyed).ports.rstN = false ∧
    (driveReset 0xC12345678#36 (running .enc 17)).ports.rstN = false := by decide

/-- Each clause: a reset edge, a cycle with no read after reset (idle, or a write), a start with three words written. -/
theorem test_witness_ResetStateValues :
    (driveReset 0x700000000#36 (running .dec 31)).ports.rstN = false ∧
    (State.reset.eng = State.reset.eng ∧ State.reset.ports.sel = false) ∧
    ((drive [0x800000000#36] State.reset).eng = State.reset.eng ∧ (drive [0x800000000#36] State.reset).ports.we = true) ∧
    ∃ s : State, s.eng.busy = false ∧ s.eng.keyWr = 0b0111#4 ∧ s.eng.keyWr ≠ 0b1111#4 ∧
      (Instr.wrCtrlEnc true false).isStart = true := by
  refine ⟨by decide, by decide, by decide, ⟨{ keyed with eng := { keyed.eng with keyWr := 0b0111#4 } }, ?_⟩⟩
  decide

theorem test_witness_EveryStepKeepsInvariant :
    (running .enc 31).Inv ∧ ∃ t, step (running .enc 31) = .next t :=
  ⟨test_running_meets_invariant.2.1, ⟨_, rfl⟩⟩

theorem test_witness_NothingButResetAborts :
    ((drive [0xE0000000C#36] (running .enc 30)).ports.rstN = true ∧ (running .enc 30).eng.busy = true ∧
      (running .enc 30).eng.rc ≠ 31#6) ∧
    (driveReset 0#36 (running .dec 30)).ports.rstN = false := by decide

/-- A cycle that writes KEY3, and one that clears the key. -/
theorem test_witness_KeyChangesOnlyByHostWhileIdle :
    (∃ t, step (drive [0xB00000009#36] keyed) = .next t ∧ (drive [0xB00000009#36] keyed).ports.rstN = true ∧
      t.eng.key.get .k3 ≠ keyed.eng.key.get .k3) ∧
    ∃ t, step (drive [0xE00000008#36] keyed) = .next t ∧ (drive [0xE00000008#36] keyed).ports.rstN = true ∧
      t.eng.key.get .k0 ≠ keyed.eng.key.get .k0 := by
  exact ⟨⟨_, rfl, by decide, by decide⟩, ⟨_, rfl, by decide, by decide⟩⟩

theorem test_witness_ModeChangesOnlyByStart :
    ∃ t, step (drive [0xE00000002#36] stateA) = .next t ∧ (drive [0xE00000002#36] stateA).ports.rstN = true ∧
      t.eng.mode ≠ stateA.eng.mode := by
  exact ⟨_, rfl, by decide, by decide⟩

/-- Both ends of the range of `r`, both modes, with a bus that goes on carrying writes. -/
theorem test_witness_OperationTiming :
    (keyed.eng.busy = false ∧ keyed.eng.keyWr = 0b1111#4 ∧ 0 ≤ 31 ∧
      (drive [0xE00000001#36, 0xC12345678#36] keyed).carries (Mode.startWord .enc false) ∧
      noReset 1 (drive [0xE00000001#36, 0xC12345678#36] keyed).bus) ∧
    (stateA.eng.busy = false ∧ stateA.eng.keyWr = 0b1111#4 ∧ 31 ≤ 31 ∧
      (drive [0xE00000006#36, 0xE0000000C#36] stateA).carries (Mode.startWord .dec true) ∧
      noReset 32 (drive [0xE00000006#36, 0xE0000000C#36] stateA).bus) := by
  unfold State.carries noReset; decide

theorem test_witness_EncryptOperationComputesTeaEnc :
    keyed.eng.busy = false ∧ keyed.eng.keyWr = 0b1111#4 ∧
    (drive [0xE00000005#36, 0xCDEADBEEF#36] keyed).carries (.wrCtrlEnc true false) ∧
    noReset 33 (drive [0xE00000005#36, 0xCDEADBEEF#36] keyed).bus := by
  unfold State.carries noReset; decide

theorem test_witness_DecryptOperationComputesTeaDec :
    stateA.eng.busy = false ∧ stateA.eng.keyWr = 0b1111#4 ∧
    (drive [0xE00000002#36, 0xCDEADBEEF#36] stateA).carries (.wrCtrlDec false false) ∧
    noReset 33 (drive [0xE00000002#36, 0xCDEADBEEF#36] stateA).bus := by
  unfold State.carries noReset; decide

/-- An ENC word, 32 reads of STATUS, a DEC word: the DEC stands at place 33. -/
def encThenDec : List TransactionWord := 0xE00000001#36 :: List.replicate 32 0x700000000#36 ++ [0xE00000002#36]

theorem test_witness_DecAfterEncRestoresBlockInPlace :
    keyed.eng.busy = false ∧ keyed.eng.keyWr = 0b1111#4 ∧
    (drive encThenDec keyed).carries (.wrCtrlEnc false false) ∧ noReset 66 (drive encThenDec keyed).bus ∧
    ((drive encThenDec keyed).bus.getD 33 BusCycle.idle).sel = true ∧
    decode ((drive encThenDec keyed).bus.getD 33 BusCycle.idle).word = .wrCtrlDec false false := by
  unfold State.carries noReset; decide

/-- Two machines with the key and block of `keyed`, one of them after an earlier operation and with an error bit. -/
theorem test_witness_ResultDependsOnKeyAndBlockOnly :
    ∃ s' : State, s'.eng ≠ keyed.eng ∧ keyed.eng.key = s'.eng.key ∧ keyed.eng.data = s'.eng.data ∧
      keyed.eng.busy = false ∧ s'.eng.busy = false ∧ keyed.eng.keyWr = 0b1111#4 ∧ s'.eng.keyWr = 0b1111#4 ∧
      (drive [0xE00000002#36] keyed).carries (Mode.startWord .dec false) ∧
      s'.carries (Mode.startWord .dec true) ∧ noReset 33 (drive [0xE00000002#36] keyed).bus ∧ noReset 33 s'.bus := by
  refine ⟨drive [0xE00000006#36] { keyed with eng := { keyed.eng with
    rc := 32#6, sum := 0xC6EF3720#32, done := true, errNoKey := true } }, ?_⟩
  unfold State.carries noReset; decide

/-- An order that is not 0, 1, 2, 3 and writes one register twice. -/
theorem test_witness_SetKeyInAnyOrder :
    (∀ n : KeyReg, n ∈ [KeyReg.k3, .k1, .k0, .k1, .k2]) ∧ stateA.eng.busy = false ∧
    (drive [0xB00000004#36, 0x900000002#36, 0x800000001#36, 0x900000002#36, 0xA00000003#36] stateA).bus
      = [KeyReg.k3, .k1, .k0, .k1, .k2].map
          (fun n => BusCycle.transact (encode (.wrKey n (Key.get ⟨1#32, 2#32, 3#32, 4#32⟩ n)))) ++ [] := by
  refine ⟨by intro n; cases n <;> decide, by decide, by decide⟩

/-- Two keys and a cycle that reads KEY0 without reset, the premise of the `rdata` clause. -/
theorem test_witness_KeyIsNotObservableWhileIdle :
    ∃ s' : State, s'.eng ≠ (drive [0x000000000#36] keyed).eng ∧
      (drive [0x000000000#36] keyed).eng.sameButKey s'.eng ∧ (drive [0x000000000#36] keyed).bus = s'.bus ∧
      (drive [0x000000000#36] keyed).eng.busy = false ∧ (drive [0x000000000#36] keyed).ports.rstN = true := by
  refine ⟨drive [0x000000000#36] { keyed with eng := { keyed.eng with key := ⟨9#32, 8#32, 7#32, 6#32⟩ } }, ?_⟩
  unfold Engine.sameButKey; decide

theorem test_witness_SumIsNotObservable :
    ∃ s' : State, s'.eng ≠ keyed.eng ∧ keyed.eng.sameButSum s'.eng ∧ keyed.bus = s'.bus := by
  refine ⟨{ keyed with eng := { keyed.eng with sum := 0x9E3779B9#32 } }, ?_⟩
  unfold Engine.sameButSum; decide

end Sys2Proof.Tests
end

/-! PROOFS. What a transaction does to KEY_WR and when a start word is accepted; the statements on `10_state.md` R28 and
R33. -/

namespace Sys2Proof.Machine

open Sys2Proof

/-! ### which transactions are writes -/

theorem Instr.isWrite_of_isStart {i : Instr} (h : i.isStart = true) : i.isWrite = true := by
  cases i with
  | wrCtrlEnc _ _ | wrCtrlDec _ _ => rfl
  | _ => exact nomatch h

theorem Instr.isWrite_of_hasKeyclr {i : Instr} (h : i.hasKeyclr = true) : i.isWrite = true := by
  cases i with
  | wrCtrlNop _ _ | wrCtrlEnc _ _ | wrCtrlDec _ _ => rfl
  | _ => exact nomatch h

theorem decodeCtrl_isWrite (d : Word) : (decodeCtrl d).isWrite = true := by
  unfold decodeCtrl
  split
  · rfl
  · split <;> rfl

/-- The decoder reads a write exactly when `WE = 1` (`30_encoding.md` R48). -/
theorem decode_isWrite (tw : TransactionWord) : (decode tw).isWrite = tw.getLsbD 35 := by
  unfold decode
  split <;> simp only [decodeCtrl_isWrite, *] <;> rfl

/-- A write drives 0 on `rdata` (`40_register_access.md` R74). -/
theorem Instr.answer_write {i : Instr} (g : Engine) (h : i.isWrite = true) : Instr.answer i g = 0#32 := by
  cases i with
  | rdData _ | rdStatus => exact nomatch h
  | _ => rfl

/-- `rdata` is 0 in a cycle with no read (`10_state.md` R33). -/
theorem BusCycle.answer_no_read {c : BusCycle} (g : Engine) (h : c.sel = false ∨ c.we = true) :
    c.answer g = 0#32 := by
  unfold BusCycle.answer
  split
  next hsel =>
    have hwe : c.we = true := h.resolve_left (by simp [hsel])
    apply Instr.answer_write
    rw [decode_isWrite, BusCycle.word, transactionWord_we, hwe]
  next => rfl

/-! ### a start word while idle -/

/-- A start word prepares by its own CLR and KEYCLR and then tries the start (`40_register_access.md` R66). -/
theorem Instr.effect_start {i : Instr} (h : i.isStart = true) (g : Engine) :
    ∃ m clr, Instr.effect i g = (g.prepare clr i.hasKeyclr).tryStart m := by
  cases i with
  | wrCtrlEnc clr _ => exact ⟨.enc, clr, rfl⟩
  | wrCtrlDec clr _ => exact ⟨.dec, clr, rfl⟩
  | _ => exact nomatch h

/-- The key is whole after the preparation when it was whole before and KEYCLR = 0. -/
theorem Engine.prepare_keyWr_whole_iff (clr keyclr : Bool) (g : Engine) :
    (g.prepare clr keyclr).keyWr = 0b1111#4 ↔ (g.keyValid && !keyclr) = true := by
  cases keyclr <;> simp [Engine.keyValid_eq]

theorem Instr.effect_start_busy {i : Instr} {g : Engine} (h : i.isStart = true) (hb : g.busy = false) :
    (Instr.effect i g).busy = (g.keyValid && !i.hasKeyclr) := by
  obtain ⟨m, clr, heff⟩ := Instr.effect_start h g
  rw [heff, Engine.tryStart_busy, Engine.prepare_busy, hb]
  simp only [Engine.prepare_keyWr_whole_iff, Bool.if_true_left, Bool.or_false, Bool.decide_eq_true]

/-- A start word without a whole key raises ErrNoKey (`60_exceptions.md` R105). -/
theorem Instr.effect_start_errNoKey {i : Instr} {g : Engine} (h : i.isStart = true)
    (hv : (g.keyValid && !i.hasKeyclr) = false) : (Instr.effect i g).errNoKey = true := by
  obtain ⟨m, clr, heff⟩ := Instr.effect_start h g
  rw [heff, Engine.tryStart_errNoKey, if_neg]
  rw [Engine.prepare_keyWr_whole_iff, hv]
  exact Bool.false_ne_true

/-! ### KEY_WR -/

/-- Marking KEY[n] sets its own KEY_WR bit and no other. -/
theorem keyWr_mark_getLsbD (w : BitVec 4) (n m : KeyReg) :
    (w ||| (1#4 <<< n.index)).getLsbD m.index = (decide (m = n) || w.getLsbD m.index) := by
  revert w
  cases n <;> cases m <;> decide

/-- What a transaction's effect does to KEY_WR: WR_KEYn marks, KEYCLR clears, nothing else writes it. -/
theorem Instr.effect_keyWr_cases (i : Instr) (g : Engine) :
    (∃ n d, i = .wrKey n d ∧ (Instr.effect i g).keyWr = g.keyWr ||| (1#4 <<< n.index)) ∨
    (i.hasKeyclr = true ∧ (Instr.effect i g).keyWr = 0#4) ∨
    (i.hasKeyclr = false ∧ (Instr.effect i g).keyWr = g.keyWr) := by
  cases i with
  | wrKey n d => exact .inl ⟨n, d, rfl, rfl⟩
  | wrCtrlNop clr keyclr | wrCtrlEnc clr keyclr | wrCtrlDec clr keyclr =>
    right
    cases keyclr <;> simp [Instr.effect, Instr.hasKeyclr]
  | wrCtrlIllegal _ => exact .inr (.inr ⟨rfl, Engine.raise_keyWr .cmd g⟩)
  | _ => exact .inr (.inr ⟨rfl, rfl⟩)

theorem Instr.effect_keyclr_keyWr {i : Instr} (h : i.hasKeyclr = true) (g : Engine) :
    (Instr.effect i g).keyWr = 0#4 := by
  rcases Instr.effect_keyWr_cases i g with ⟨n, d, rfl, -⟩ | ⟨-, hw⟩ | ⟨hn, -⟩
  · exact nomatch h
  · exact hw
  · exact absurd h (by simp [hn])

/-- A transaction that changes KEY_WR[n] found the engine idle, and it is WR_KEYn or carries KEYCLR. -/
theorem Instr.hostEngine_keyWr_changed {i : Instr} {g : Engine} {n : KeyReg}
    (h : (Instr.hostEngine i g).keyWr.getLsbD n.index ≠ g.keyWr.getLsbD n.index) :
    g.busy = false ∧
      ((∃ d, i = .wrKey n d) ∧ (Instr.hostEngine i g).keyWr.getLsbD n.index = true ∨
        i.hasKeyclr = true ∧ (Instr.hostEngine i g).keyWr.getLsbD n.index = false) := by
  cases hwrite : i.isWrite with
  | false => exact absurd (by rw [Instr.hostEngine_read g hwrite]) h
  | true =>
    cases hb : g.busy with
    | true => exact absurd (by rw [Instr.hostEngine_busy hwrite hb, Engine.raise_keyWr]) h
    | false =>
      refine ⟨rfl, ?_⟩
      rw [Instr.hostEngine_idle hwrite hb] at h ⊢
      rcases Instr.effect_keyWr_cases i g with ⟨m, d, rfl, hw⟩ | ⟨hk, hw⟩ | ⟨-, hw⟩
      · rw [hw, keyWr_mark_getLsbD] at h ⊢
        by_cases hnm : n = m
        · subst hnm
          exact .inl ⟨⟨d, rfl⟩, by simp⟩
        · exact absurd (by simp [hnm]) h
      · exact .inr ⟨hk, by rw [hw, BitVec.getLsbD_zero]⟩
      · exact absurd (by rw [hw]) h

/-- Over a cycle without reset a KEY_WR bit changes only by a transaction that changes it. -/
theorem step_keyWr_changed {s t : State} {n : KeyReg} (hstep : step s = .next t) (hr : s.ports.rstN = true)
    (h : t.eng.keyWr.getLsbD n.index ≠ s.eng.keyWr.getLsbD n.index) :
    ∃ i : Instr, s.carries i ∧ t.eng.keyWr = (Instr.hostEngine i s.eng).keyWr := by
  have ht : t.eng.keyWr = (s.ports.hostEngine s.eng).keyWr := by
    rw [(step_next_iff s t).1 hstep, BusCycle.nextEngine_run _ hr, Engine.commitRound_keyWr]
  rw [ht] at h ⊢
  cases hsel : s.ports.sel with
  | false => exact absurd (by simp [BusCycle.hostEngine, hsel]) h
  | true =>
    have hc : s.carries (decode s.ports.word) := ⟨hr, hsel, rfl⟩
    exact ⟨_, hc, by rw [State.carries_hostEngine hc]⟩

/-! ### the next state of a transaction and of a reset cycle -/

/-- A write while idle answers the state with its effect. -/
theorem exec_write_idle {i : Instr} {s : State} (h : i.isWrite = true) (hb : s.eng.busy = false) :
    ∃ t, exec i s = .next t ∧ t.eng = Instr.effect i s.eng :=
  ⟨_, exec_eq i s, Instr.hostEngine_idle h hb⟩

/-- A reset cycle leaves the reset engine. -/
theorem step_reset {s : State} (h : s.ports.rstN = false) : ∃ t, step s = .next t ∧ t.eng = Engine.reset :=
  ⟨_, step_eq s, BusCycle.nextEngine_reset _ h⟩

/-! ### the statements -/

/-- Settles O26: the effect of a transaction on KEY_WR and BUSY, case by case, and no round touches KEY_WR. -/
theorem startIffKeyValid : Obligations.StartIffKeyValid := by
  unfold Obligations.StartIffKeyValid
  refine ⟨fun g => rfl, fun g => Engine.status_getLsbD g 2 (by decide), ?start, ?wrKey, ?keyclr, ?reset, ?change⟩
  case start =>
    intro i s hi hb
    obtain ⟨t, ht, heng⟩ := exec_write_idle (Instr.isWrite_of_isStart hi) hb
    exact ⟨t, ht, by rw [heng, Instr.effect_start_busy hi hb]⟩
  case wrKey =>
    intro n d s hb
    obtain ⟨t, ht, heng⟩ := exec_write_idle (i := .wrKey n d) rfl hb
    refine ⟨t, ht, ?_⟩
    rw [heng, Instr.effect, Engine.writeKey_keyWr, keyWr_mark_getLsbD]
    simp
  case keyclr =>
    intro i s hk hb
    obtain ⟨t, ht, heng⟩ := exec_write_idle (Instr.isWrite_of_hasKeyclr hk) hb
    exact ⟨t, ht, by rw [heng, Instr.effect_keyclr_keyWr hk]⟩
  case reset =>
    intro s hr
    obtain ⟨t, ht, heng⟩ := step_reset hr
    exact ⟨t, ht, by rw [heng]; rfl⟩
  case change =>
    intro s t n hstep hr h
    obtain ⟨i, hcarries, hw⟩ := step_keyWr_changed hstep hr h
    rw [hw] at h ⊢
    obtain ⟨hb, hcases⟩ := Instr.hostEngine_keyWr_changed h
    exact ⟨hb, i, hcarries, hcases⟩

/-- Settles O46: the table's values by evaluation, the clauses on cycles and starts by the lemmas above. -/
theorem resetStateValues : Obligations.ResetStateValues := by
  unfold Obligations.ResetStateValues
  refine ⟨rfl, rfl, rfl, rfl, rfl, rfl, rfl, rfl, rfl, rfl, rfl, rfl, rfl, rfl, rfl, fun s => step_reset,
    ?noRead, ?start⟩
  case noRead =>
    intro s _ h
    exact ⟨_, step_eq s, BusCycle.answer_no_read s.eng h⟩
  case start =>
    intro i s hi hb hk
    have hv : (s.eng.keyValid && !i.hasKeyclr) = false := by simp [Engine.keyValid_eq, hk]
    obtain ⟨t, ht, heng⟩ := exec_write_idle (Instr.isWrite_of_isStart hi) hb
    exact ⟨t, ht, by rw [heng, Instr.effect_start_busy hi hb, hv], by rw [heng, Instr.effect_start_errNoKey hi hv]⟩

end Sys2Proof.Machine

/-! PROOFS. Every decoded transaction is well formed, and a cycle that carries one commits the round over what it leaves;
the statement on `20_memory.md` R41. -/

namespace Sys2Proof

/-! ### the decoder answers well-formed instructions only -/

theorem cmdField_eq_bits (d : Word) : cmdField d = BitVec.ofBool (d.getLsbD 1) ++ BitVec.ofBool (d.getLsbD 0) := by
  apply BitVec.eq_of_getLsbD_eq
  intro j hj
  rw [cmdField, BitVec.getLsbD_extractLsb', BitVec.getLsbD_append]
  obtain rfl | rfl : j = 0 ∨ j = 1 := by omega
  all_goals simp

/-- A command word that is no NOP, ENC or DEC is illegal: `RSV` is not 0 or `CMD` is 3 (`30_encoding.md` R50, R51). -/
theorem decodeCtrl_wellFormed (d : Word) : (decodeCtrl d).wellFormed = true := by
  unfold decodeCtrl
  split
  next hrsv => simp [Instr.wellFormed, commandLegal, hrsv]
  next =>
    split
    · rfl
    · rfl
    · rfl
    next h1 h0 =>
      have hcmd : cmdField d = 0b11#2 := by rw [cmdField_eq_bits, h1, h0]; rfl
      simp [Instr.wellFormed, commandLegal, hcmd]

/-- Only a write to CTRL can decode to an instruction whose operand is restricted (`30_encoding.md` R48). -/
theorem decode_wellFormed (tw : TransactionWord) : (decode tw).wellFormed = true := by
  unfold decode
  split
  case h_7 => exact decodeCtrl_wellFormed _
  all_goals rfl

end Sys2Proof

namespace Sys2Proof.Machine

open Sys2Proof

/-! ### a cycle that carries a transaction -/

theorem Engine.engineStep_busy {g : Engine} (hb : g.busy = true) : g.engineStep = g.round := by
  simp [Engine.engineStep, hb]

theorem State.carries_answer {s : State} {i : Instr} (h : s.carries i) (g : Engine) :
    s.ports.answer g = Instr.answer i g := by
  obtain ⟨-, hsel, hdec⟩ := h
  simp [BusCycle.answer, hsel, hdec]

/-- A cycle that carries `i` answers what `i` answers and commits the engine's part over what `i` leaves
(`20_memory.md` R41). -/
theorem step_of_carries {s : State} {i : Instr} (h : s.carries i) :
    step s = .next ⟨s.eng.commitRound (Instr.hostEngine i s.eng), Instr.answer i s.eng, s.bus.tail⟩ := by
  rw [step_eq, BusCycle.nextEngine_run _ h.1, State.carries_hostEngine h, State.carries_answer h]

/-! ### the statement -/

/-- Settles O41: both parts of the cycle act on its start, and the commit is the round exactly when BUSY = 1 there. -/
theorem stepRunsDecodedTransaction : Obligations.StepRunsDecodedTransaction := by
  unfold Obligations.StepRunsDecodedTransaction
  intro s i h
  have hwf : i.wellFormed = true := by
    obtain ⟨-, -, rfl⟩ := h
    exact decode_wellFormed _
  refine ⟨hwf, _, _, exec_eq i s.advanceBus, step_of_carries h, rfl, ?idle, ?busy⟩
  case idle => exact fun hb => Engine.commitRound_idle _ hb
  case busy =>
    intro hb
    rw [Engine.engineStep_busy hb]
    exact Engine.commitRound_busy _ hb

end Sys2Proof.Machine

/-! PROOFS. A read's `D` is neither decoded nor spelt, and the STATUS word read back field by field; the statements on
`30_encoding.md` R49 and R53. -/

namespace Sys2Proof

/-! ### the `D` of a read -/

/-- The address bits alone select the transaction of a read; no arm with `WE = 0` looks at `D`. -/
theorem decode_read_ignores_data (a : BitVec 3) (d d' : Word) :
    decode (transactionWord false a d) = decode (transactionWord false a d') := by
  rw [decode_transactionWord, decode_transactionWord]
  cases a.getLsbD 2 with
  | false => rfl
  | true =>
    cases a.getLsbD 1 with
    | false => rfl
    | true => cases a.getLsbD 0 <;> rfl

/-- The encoder spells a read with `D = 0`. -/
theorem dataField_encode_read {i : Instr} (h : i.isWrite = false) : dataField (encode i) = 0#32 := by
  cases i with
  | rdKey _ | rdData _ | rdCtrl | rdStatus => exact dataField_transactionWord _ _ _
  | _ => exact nomatch h

/-- Settles O5: no read arm of the decoder or of the encoder uses `D`. -/
theorem readIgnoresDataField : Obligations.ReadIgnoresDataField := by
  unfold Obligations.ReadIgnoresDataField
  exact ⟨decode_read_ignores_data, fun _ => dataField_encode_read⟩

end Sys2Proof

namespace Sys2Proof.Machine

open Sys2Proof

/-! ### the fields of STATUS wider than one bit -/

/-- A field of a word is known from its bits. -/
theorem extractLsb'_eq_of_getLsbD {w start len : Nat} {x : BitVec w} {y : BitVec len}
    (h : ∀ k < len, x.getLsbD (start + k) = y.getLsbD k) : x.extractLsb' start len = y := by
  apply BitVec.eq_of_getLsbD_eq
  intro k hk
  rw [BitVec.getLsbD_extractLsb', decide_eq_true hk, Bool.true_and, h k hk]

theorem Engine.status_rc (g : Engine) : g.status.extractLsb' 8 6 = g.rc := by
  apply extractLsb'_eq_of_getLsbD
  intro k hk
  rw [Engine.status_getLsbD g _ (by omega)]
  simp (disch := omega) only [if_neg, if_pos, Nat.add_sub_cancel_left]

theorem Engine.status_reserved_15_14 (g : Engine) : g.status.extractLsb' 14 2 = 0b00#2 := by
  apply extractLsb'_eq_of_getLsbD
  intro k hk
  rw [Engine.status_getLsbD g _ (by omega), BitVec.getLsbD_zero]
  simp (disch := omega) only [if_neg, if_pos]

/-- From bit 16 upward STATUS shows KEY_WR, which has no bit above its own four. -/
theorem Engine.status_getLsbD_high (g : Engine) {k : Nat} (hk : k < 16) :
    g.status.getLsbD (16 + k) = g.keyWr.getLsbD k := by
  rw [Engine.status_getLsbD g _ (by omega)]
  simp (disch := omega) only [if_neg, Nat.add_sub_cancel_left]

theorem Engine.status_keyWr (g : Engine) : g.status.extractLsb' 16 4 = g.keyWr := by
  apply extractLsb'_eq_of_getLsbD
  exact fun k hk => Engine.status_getLsbD_high g (by omega)

theorem Engine.status_reserved_31_20 (g : Engine) : g.status.extractLsb' 20 12 = 0#12 := by
  apply extractLsb'_eq_of_getLsbD
  intro k hk
  rw [show 20 + k = 16 + (4 + k) by omega, Engine.status_getLsbD_high g (by omega), BitVec.getLsbD_zero]
  exact BitVec.getLsbD_of_ge _ _ (by omega)

/-! ### the statement -/

/-- Settles O12: the wider fields by the lemmas above, each single bit by its place in the concatenation. -/
theorem statusWordFields : Obligations.StatusWordFields := by
  unfold Obligations.StatusWordFields
  intro g
  have bit := Engine.status_getLsbD g
  refine ⟨Engine.status_keyWr g, Engine.status_reserved_15_14 g, Engine.status_rc g, bit 7 (by decide),
    bit 6 (by decide), bit 5 (by decide), bit 4 (by decide), ?mode, bit 2 (by decide), bit 1 (by decide),
    bit 0 (by decide), Engine.status_reserved_31_20 g⟩
  case mode => exact (bit 3 (by decide)).trans (Mode.bit_eq g.mode)

end Sys2Proof.Machine

/-! PROOFS. The register access transactions: their words, what a read, a write while idle and a write while busy answer in
full, and a cycle without a transaction; the statements on `40_register_access.md` R61 to R65, R67, R68 and R70. -/

namespace Sys2Proof

/-! ### the words of the register access transactions (`30_encoding.md` R48) -/

@[simp] theorem decode_rdKey_word (n : KeyReg) (d : Word) : decode (transactionWord false n.addr d) = .rdKey n := by
  rw [decode_transactionWord]
  cases n <;> rfl

@[simp] theorem decode_rdData_word (n : DataReg) (d : Word) : decode (transactionWord false n.addr d) = .rdData n := by
  rw [decode_transactionWord]
  cases n <;> rfl

@[simp] theorem decode_rdCtrl_word (d : Word) : decode (transactionWord false 6#3 d) = .rdCtrl := by
  rw [decode_transactionWord]; rfl

@[simp] theorem decode_wrKey_word (n : KeyReg) (d : Word) : decode (transactionWord true n.addr d) = .wrKey n d := by
  rw [decode_transactionWord]
  cases n <;> rfl

@[simp] theorem decode_wrData_word (n : DataReg) (d : Word) : decode (transactionWord true n.addr d) = .wrData n d := by
  rw [decode_transactionWord]
  cases n <;> rfl

@[simp] theorem decode_wrCtrl_word (d : Word) : decode (transactionWord true 6#3 d) = decodeCtrl d := by
  rw [decode_transactionWord]; rfl

@[simp] theorem decode_wrStatus_word (d : Word) : decode (transactionWord true 7#3 d) = .wrStatus d := by
  rw [decode_transactionWord]; rfl

end Sys2Proof

namespace Sys2Proof.Machine

open Sys2Proof

/-! ### the whole next state of a transaction -/

/-- A read answers and changes nothing, busy or not: the write gate does not stand before it (`40_register_access.md`
R61). -/
theorem exec_read {i : Instr} (s : State) (h : i.isWrite = false) :
    exec i s = .next { s with rdata := Instr.answer i s.eng } := by
  rw [exec_eq, Instr.hostEngine_read _ h]

/-- A write while busy sets ERR_BUSY and does nothing else (`40_register_access.md` R61). -/
theorem exec_write_busy {i : Instr} {s : State} (h : i.isWrite = true) (hb : s.eng.busy = true) :
    exec i s = .next { s with rdata := 0#32, eng := { s.eng with errBusy := true } } := by
  rw [exec_eq, Instr.hostEngine_busy h hb, Instr.answer_write _ h]
  rfl

/-- A write while idle has its own effect and drives 0. -/
theorem exec_write_idle_eq {i : Instr} {s : State} (h : i.isWrite = true) (hb : s.eng.busy = false) :
    exec i s = .next { s with rdata := 0#32, eng := Instr.effect i s.eng } := by
  rw [exec_eq, Instr.hostEngine_idle h hb, Instr.answer_write _ h]

/-! ### a cycle without a transaction -/

theorem BusCycle.hostEngine_no_transaction {c : BusCycle} (g : Engine) (h : c.sel = false) : c.hostEngine g = g := by
  simp [BusCycle.hostEngine, h]

/-- Where the host changed nothing the edge commits the engine's own step (`40_register_access.md` R74). -/
theorem Engine.commitRound_self (g : Engine) : g.commitRound g = g.engineStep := by
  cases hb : g.busy with
  | false => simp [Engine.commitRound_idle, Engine.engineStep, hb]
  | true =>
    rw [Engine.engineStep_busy hb, Engine.commitRound_busy g hb]
    apply Engine.ext_registers <;> simp

/-! ### the statements -/

/-- Settles O20: a write while busy stops at the gate, and a read passes it by. -/
theorem busyWriteIsDropped : Obligations.BusyWriteIsDropped := by
  unfold Obligations.BusyWriteIsDropped
  exact ⟨fun _ _ => exec_write_busy, fun _ s h => ⟨_, exec_read s h⟩⟩

/-- Settles O8: RD_KEYn is a read whose answer is 0. -/
theorem rdKeyReturnsZero : Obligations.RdKeyReturnsZero := by
  unfold Obligations.RdKeyReturnsZero
  exact fun n d s => ⟨decode_rdKey_word n d, exec_read s rfl⟩

/-- Settles O9: the answer is taken from the start of the cycle, so the round of the same cycle does not show in it. -/
theorem rdDataReturnsBlockWord : Obligations.RdDataReturnsBlockWord := by
  unfold Obligations.RdDataReturnsBlockWord
  refine ⟨fun n d s => ⟨decode_rdData_word n d, exec_read s rfl⟩, fun n s h => ⟨_, step_of_carries h, rfl⟩, ?reset⟩
  case reset => intro n; cases n <;> rfl

/-- Settles O10: RD_CTRL is a read whose answer is 0. -/
theorem rdCtrlReturnsZero : Obligations.RdCtrlReturnsZero := by
  unfold Obligations.RdCtrlReturnsZero
  exact fun d s => ⟨decode_rdCtrl_word d, exec_read s rfl⟩

/-- Settles O14: the effect while idle is `Engine.writeKey`, which stores the word and marks it. -/
theorem wrKeyStoresAndMarks : Obligations.WrKeyStoresAndMarks := by
  unfold Obligations.WrKeyStoresAndMarks
  exact fun n d s => ⟨decode_wrKey_word n d, exec_write_idle_eq rfl, exec_write_busy rfl⟩

/-- Settles O15: the effect while idle is `Engine.writeData`, which stores the word. -/
theorem wrDataStores : Obligations.WrDataStores := by
  unfold Obligations.WrDataStores
  exact fun n d s => ⟨decode_wrData_word n d, exec_write_idle_eq rfl, exec_write_busy rfl⟩

/-- Settles O16: WR_STATUS has no effect of its own, but it is a write and so stands behind the gate. -/
theorem wrStatusHasNoEffect : Obligations.WrStatusHasNoEffect := by
  unfold Obligations.WrStatusHasNoEffect
  exact fun d s => ⟨decode_wrStatus_word d, exec_write_idle_eq rfl, exec_write_busy rfl⟩

/-- Settles O43: the host's part of the cycle leaves the engine, so the edge commits the engine's own step. -/
theorem idleCycleOnlyRounds : Obligations.IdleCycleOnlyRounds := by
  unfold Obligations.IdleCycleOnlyRounds
  intro s hr hsel
  have hnext : s.ports.nextEngine s.eng = s.eng.engineStep := by
    rw [BusCycle.nextEngine_run _ hr, BusCycle.hostEngine_no_transaction _ hsel, Engine.commitRound_self]
  refine ⟨_, step_eq s, BusCycle.answer_no_read s.eng (.inl hsel), ?idle, fun _ => hnext⟩
  case idle => exact fun hb => hnext.trans (by simp [Engine.engineStep, hb])

end Sys2Proof.Machine

/-! PROOFS. The rows of the write to CTRL agree with the pseudocode; the statement on `40_register_access.md` R66. -/

namespace Sys2Proof.Machine

open Sys2Proof

/-! ### the pseudocode by the kind of command word -/

/-- CLR and KEYCLR as the pseudocode's local copies: each register is chosen on its own. -/
theorem Engine.prepare_eq_copies (clr keyclr : Bool) (g : Engine) :
    g.prepare clr keyclr = { g with
      done := if clr then false else g.done
      errNoKey := if clr then false else g.errNoKey
      errBusy := if clr then false else g.errBusy
      errCmd := if clr then false else g.errCmd
      keyWr := if keyclr then 0b0000#4 else g.keyWr
      key := if keyclr then ⟨0#32, 0#32, 0#32, 0#32⟩ else g.key } := by
  cases clr <;> cases keyclr <;> rfl

theorem Engine.ctrlPseudocode_illegal {d : Word} (g : Engine) (h : rsvField d ≠ 0#28 ∨ cmdField d = 0b11#2) :
    g.ctrlPseudocode d = g.raise .cmd := by
  rw [Engine.ctrlPseudocode, if_pos h]
  rfl

/-- With CMD = 0b00 only the local copies are committed. -/
theorem Engine.ctrlPseudocode_nop {d : Word} (g : Engine) (hrsv : rsvField d = 0#28) (hcmd : cmdField d = 0b00#2) :
    g.ctrlPseudocode d = g.prepare (clrField d) (keyclrField d) := by
  rw [Engine.prepare_eq_copies]
  simp [Engine.ctrlPseudocode, hrsv, hcmd]

/-- The field CMD of a word that starts an operation of mode `m` (`30_encoding.md` R51). -/
def Mode.cmd (m : Mode) : BitVec 2 :=
  match m with
  | .enc => 0b01#2
  | .dec => 0b10#2

/-- With CMD = 0b01 or 0b10 the copies are committed and a start is tried on the copy of KEY_WR. -/
theorem Engine.ctrlPseudocode_start {d : Word} {m : Mode} (g : Engine) (hrsv : rsvField d = 0#28)
    (hcmd : cmdField d = m.cmd) : g.ctrlPseudocode d = (g.prepare (clrField d) (keyclrField d)).tryStart m := by
  rw [Engine.prepare_eq_copies]
  by_cases hk : (if keyclrField d then 0b0000#4 else g.keyWr) = 0b1111#4
  · rw [Engine.tryStart_accepted m hk]
    cases m <;> simp [Engine.ctrlPseudocode, hrsv, hcmd, Mode.cmd, hk, Engine.start, Mode.initSum, Config.sumDecInit]
  · rw [Engine.tryStart_refused m hk]
    cases m <;> simp [Engine.ctrlPseudocode, hrsv, hcmd, Mode.cmd, hk, Engine.raise]

/-- Each row of the write to CTRL has the effect the pseudocode gives for the words of that row. -/
theorem Instr.effect_decodeCtrl (d : Word) (g : Engine) : Instr.effect (decodeCtrl d) g = g.ctrlPseudocode d := by
  unfold decodeCtrl
  split
  next hrsv => exact (Engine.ctrlPseudocode_illegal g (.inl hrsv)).symm
  next hne =>
    have hrsv : rsvField d = 0#28 := not_not.1 hne
    have hcmd := cmdField_eq_bits d
    split <;> rename_i h1 h0 <;> rw [h1, h0] at hcmd
    case h_1 => exact (Engine.ctrlPseudocode_nop g hrsv hcmd).symm
    case h_2 => exact (Engine.ctrlPseudocode_start (m := .enc) g hrsv hcmd).symm
    case h_3 => exact (Engine.ctrlPseudocode_start (m := .dec) g hrsv hcmd).symm
    case h_4 => exact (Engine.ctrlPseudocode_illegal g (.inr hcmd)).symm

/-! ### the statement -/

/-- Settles O21: while busy the gate drops the write, else its row has the pseudocode's effect. -/
theorem ctrlWriteFollowsPseudocode : Obligations.CtrlWriteFollowsPseudocode := by
  unfold Obligations.CtrlWriteFollowsPseudocode
  intro d s
  rw [decode_wrCtrl_word]
  cases hb : s.eng.busy with
  | true => exact exec_write_busy (decodeCtrl_isWrite d) hb
  | false =>
    rw [exec_write_idle_eq (decodeCtrl_isWrite d) hb, Instr.effect_decodeCtrl]
    rfl

end Sys2Proof.Machine

/-! PROOFS. The engine's own step as one round: the round function in numbers, what the encrypt round writes, and the
completion of the 32nd round; the statements on `41_encrypt.md` R75, R77 and R78. -/

namespace Sys2Proof.Machine

open Sys2Proof

/-! ### the round function (`41_encrypt.md` R75) -/

/-- Each term wraps on its own before the XOR, and the right shift is the floor of the division by 32. -/
theorem roundF_toNat (x s ka kb : Word) : (roundF x s ka kb).toNat =
    (((x.toNat * 16 % 2 ^ 32 + ka.toNat) % 2 ^ 32) ^^^ ((x.toNat + s.toNat) % 2 ^ 32))
      ^^^ ((x.toNat / 32 + kb.toNat) % 2 ^ 32) := by
  have hleft : (x <<< Config.shiftLeft).toNat = x.toNat * 16 % 2 ^ 32 := by
    rw [BitVec.toNat_shiftLeft, Nat.shiftLeft_eq]; rfl
  have hright : (x >>> Config.shiftRight).toNat = x.toNat / 32 := by
    rw [BitVec.toNat_ushiftRight, Nat.shiftRight_eq_div_pow]; rfl
  rw [roundF, BitVec.toNat_xor, BitVec.toNat_xor, BitVec.toNat_add, BitVec.toNat_add, BitVec.toNat_add, hleft, hright]

/-- With no key and no half only the sum is left. -/
theorem roundF_zero_half_zero_key (s : Word) : roundF 0#32 s 0#32 0#32 = s := by
  simp [roundF]

/-- Settles O35: the arithmetic term by term; the two updates apply `roundF` as they are written. -/
theorem roundFunctionArithmetic : Obligations.RoundFunctionArithmetic := by
  unfold Obligations.RoundFunctionArithmetic
  exact ⟨roundF_toNat, roundF_zero_half_zero_key, fun _ _ _ => ⟨rfl, rfl, rfl, rfl⟩⟩

/-! ### the round under the completion check -/

theorem Engine.engineStep_idle {g : Engine} (hb : g.busy = false) : g.engineStep = g := by
  simp [Engine.engineStep, hb]

/-- BUSY after the round of a busy engine, by the RC of the start of the cycle (R78). -/
theorem Engine.round_busy_of_busy {g : Engine} (hb : g.busy = true) : g.round.busy = !g.completes := by
  rw [Engine.round_busy, hb]
  cases g.completes <;> rfl

theorem Engine.round_done_eq_or (g : Engine) : g.round.done = (g.done || g.completes) := by
  rw [Engine.round_done]
  cases g.completes <;> simp

/-- Settles O36: register by register; what the round leaves is closed by the laws of `Engine.round`. -/
theorem encryptRoundEffect : Obligations.EncryptRoundEffect := by
  unfold Obligations.EncryptRoundEffect
  intro g hb hm
  rw [Engine.engineStep_busy hb]
  apply Engine.ext_registers
  case hs => exact Engine.round_enc_sum hm
  case hd => exact Engine.round_enc_data hm
  case hb => exact Engine.round_busy_of_busy hb
  case hdn => exact Engine.round_done_eq_or g
  all_goals simp

/-! ### SUM on its schedule and the completion -/

/-- A round carries SUM from the place of `r` rounds done to that of `r + 1` (`10_state.md` R24). -/
theorem Engine.round_sum_scheduled {g : Engine} {r : Nat} (hr : r < 32) (hs : g.sum = scheduledSum g.mode r) :
    g.round.sum = scheduledSum g.mode (r + 1) := by
  cases hm : g.mode with
  | enc =>
    rw [Engine.round_enc_sum hm, hs, hm]
    exact (ofNat_succ_mul r Config.delta).symm
  | dec =>
    have hleft : 32 - r = 32 - (r + 1) + 1 := by omega
    rw [Engine.round_dec_sum hm, hs, hm, scheduledSum, scheduledSum, hleft, ofNat_succ_mul, BitVec.add_sub_cancel]

/-- The last round leaves SUM at the place of all 32 rounds done. -/
theorem Engine.round_last_sum {g : Engine} (hinv : g.Inv) (hrc : g.rc = 31#6) :
    g.round.sum = scheduledSum g.mode 32 := by
  have hs : g.sum = scheduledSum g.mode 31 := by
    rw [hinv.sumScheduled, hrc]; rfl
  exact Engine.round_sum_scheduled (by decide) hs

/-- Settles O38: the completion check finds RC = 31 and no other, so BUSY falls in that round alone. -/
theorem completionEndsOperation : Obligations.CompletionEndsOperation := by
  unfold Obligations.CompletionEndsOperation
  refine fun g => ⟨?last, ?notLast, Engine.engineStep_idle⟩
  case last =>
    intro hb hrc
    have hc : g.completes = true := g.completes_iff.2 hrc
    have hidle : g.round.busy = false := by rw [Engine.round_busy_of_busy hb, hc]; rfl
    rw [Engine.engineStep_busy hb]
    refine ⟨hidle, by rw [Engine.round_done_eq_or, hc, Bool.or_true], by rw [Engine.round_rc, hrc]; rfl,
      Engine.round_mode g, Engine.engineStep_idle hidle, ?encSum, ?decSum⟩
    case encSum => intro hinv hm; rw [Engine.round_last_sum hinv hrc, hm]; decide
    case decSum => intro hinv hm; rw [Engine.round_last_sum hinv hrc, hm]; decide
  case notLast =>
    intro hb hrc
    have hc : g.completes = false := Bool.eq_false_iff.2 (mt g.completes_iff.1 hrc)
    rw [Engine.engineStep_busy hb, Engine.round_busy_of_busy hb, Engine.round_done_eq_or, hc]
    exact ⟨rfl, Bool.or_false _⟩

end Sys2Proof.Machine

/-! PROOFS. The frame of one round and what the decrypt round writes in it; the statement on `42_decrypt.md` R87. -/

namespace Sys2Proof.Machine

open Sys2Proof

/-- The frame of a busy engine's round: of either mode it writes SUM, DATA, RC, BUSY and DONE and no other register, and
only SUM and DATA depend on the mode. -/
theorem Engine.round_frame_of_busy {g : Engine} (hb : g.busy = true) :
    g.round = { g with
      sum := g.round.sum, data := g.round.data, rc := g.rc + 1#6
      busy := !g.completes, done := g.done || g.completes } := by
  apply Engine.ext_registers
  case hb => exact Engine.round_busy_of_busy hb
  case hdn => exact Engine.round_done_eq_or g
  all_goals simp

/-- Settles O37: the round's frame, with DATA and SUM by the laws of the decrypt round. -/
theorem decryptRoundEffect : Obligations.DecryptRoundEffect := by
  unfold Obligations.DecryptRoundEffect
  intro g hb hm
  rw [Engine.engineStep_busy hb, Engine.round_frame_of_busy hb, Engine.round_dec_data hm, Engine.round_dec_sum hm]
  rfl

end Sys2Proof.Machine

/-! PROOFS. The command words with CLR and KEYCLR, the NOP word and the illegal word, and a busy cycle that no transaction
aborts; the statements on `43_control_commands.md` R97 to R100 and R102. -/

namespace Sys2Proof

/-! ### which command words decode to WR_CTRL.ILLEGAL and WR_CTRL.NOP (`30_encoding.md` R50, R51) -/

theorem decodeCtrl_illegal {d : Word} (h : rsvField d ≠ 0#28 ∨ cmdField d = 0b11#2) :
    decodeCtrl d = .wrCtrlIllegal d := by
  unfold decodeCtrl
  split
  next => rfl
  next hrsv =>
    have hcmd : cmdField d = 0b11#2 := h.resolve_left hrsv
    have h1 : d.getLsbD 1 = true := by simpa [cmdField] using congrArg (·.getLsbD 1) hcmd
    have h0 : d.getLsbD 0 = true := by simpa [cmdField] using congrArg (·.getLsbD 0) hcmd
    rw [h1, h0]

theorem decodeCtrl_nop_word (clr keyclr : Bool) :
    decodeCtrl (commandWord 0b00#2 clr keyclr) = .wrCtrlNop clr keyclr := by
  cases clr <;> cases keyclr <;> rfl

end Sys2Proof

namespace Sys2Proof.Machine

open Sys2Proof

/-! ### the effect of a command word by its fields -/

theorem Instr.isWrite_of_hasClr {i : Instr} (h : i.hasClr = true) : i.isWrite = true := by
  cases i with
  | wrCtrlNop _ _ | wrCtrlEnc _ _ | wrCtrlDec _ _ => rfl
  | _ => exact nomatch h

/-- A word with CLR or KEYCLR prepares by the two fields; it then tries the start of its mode, or, as a NOP word, does
nothing more (`40_register_access.md` R66). -/
theorem Instr.effect_command_cases {i : Instr} (h : i.hasClr = true ∨ i.hasKeyclr = true) (g : Engine) :
    i.isStart = false ∧ Instr.effect i g = g.prepare i.hasClr i.hasKeyclr ∨
    i.isStart = true ∧ ∃ m, Instr.effect i g = (g.prepare i.hasClr i.hasKeyclr).tryStart m := by
  cases i with
  | wrCtrlNop _ _ => exact .inl ⟨rfl, rfl⟩
  | wrCtrlEnc _ _ => exact .inr ⟨rfl, .enc, rfl⟩
  | wrCtrlDec _ _ => exact .inr ⟨rfl, .dec, rfl⟩
  | _ => simp [Instr.hasClr, Instr.hasKeyclr] at h

/-- Only an accepted start writes SUM, RC and MODE. -/
theorem Instr.effect_command_idle {i : Instr} {g : Engine} (h : i.hasClr = true ∨ i.hasKeyclr = true)
    (hidle : (Instr.effect i g).busy = false) :
    (Instr.effect i g).sum = g.sum ∧ (Instr.effect i g).rc = g.rc ∧ (Instr.effect i g).mode = g.mode := by
  rcases Instr.effect_command_cases h g with ⟨-, heff⟩ | ⟨-, m, heff⟩
  · simp [heff]
  · rw [heff] at hidle ⊢
    by_cases hw : (g.prepare i.hasClr i.hasKeyclr).keyWr = 0b1111#4
    · rw [Engine.tryStart_accepted m hw, Engine.start_busy] at hidle
      exact nomatch hidle
    · simp [Engine.tryStart_refused m hw]

theorem Instr.effect_command_data {i : Instr} (h : i.hasClr = true ∨ i.hasKeyclr = true) (g : Engine) :
    (Instr.effect i g).data = g.data := by
  rcases Instr.effect_command_cases h g with ⟨-, heff⟩ | ⟨-, m, heff⟩ <;> simp [heff]

/-- The key words and KEY_WR follow KEYCLR alone. -/
theorem Instr.effect_command_key {i : Instr} (h : i.hasClr = true ∨ i.hasKeyclr = true) (g : Engine) :
    (Instr.effect i g).key = (if i.hasKeyclr then ⟨0#32, 0#32, 0#32, 0#32⟩ else g.key) ∧
    (Instr.effect i g).keyWr = (if i.hasKeyclr then 0b0000#4 else g.keyWr) := by
  rcases Instr.effect_command_cases h g with ⟨-, heff⟩ | ⟨-, m, heff⟩ <;> simp [heff]

/-! ### the illegal word (R100) -/

/-- Raising an error clears none (`60_exceptions.md` R105). -/
theorem Engine.raise_keeps_errors (e : InterfaceError) (g : Engine) :
    (g.errNoKey = true → (g.raise e).errNoKey = true) ∧ (g.errBusy = true → (g.raise e).errBusy = true) ∧
    (g.errCmd = true → (g.raise e).errCmd = true) := by
  cases e <;> simp

/-- An illegal word raises one error, ErrBusy or ErrCmd, and does nothing else. -/
theorem Instr.hostEngine_illegal (d : Word) (g : Engine) :
    Instr.hostEngine (.wrCtrlIllegal d) g = g.raise (if g.busy then .busy else .cmd) := by
  cases hb : g.busy with
  | true => exact Instr.hostEngine_busy rfl hb
  | false => exact Instr.hostEngine_idle rfl hb

/-! ### CLR while idle (R97) -/

/-- CLR clears DONE, ERR_BUSY and ERR_CMD, whatever CMD says. -/
theorem Instr.effect_clr_flags {i : Instr} (h : i.hasClr = true) (g : Engine) :
    (Instr.effect i g).done = false ∧ (Instr.effect i g).errBusy = false ∧ (Instr.effect i g).errCmd = false := by
  rcases Instr.effect_command_cases (.inl h) g with ⟨-, heff⟩ | ⟨-, m, heff⟩ <;> simp [heff, h]

/-- After CLR only a start refused in the same word shows ERR_NOKEY. -/
theorem Instr.effect_clr_errNoKey {i : Instr} {g : Engine} (h : i.hasClr = true) (hb : g.busy = false) :
    (Instr.effect i g).errNoKey = (i.isStart && !(Instr.effect i g).busy) := by
  rcases Instr.effect_command_cases (.inl h) g with ⟨hs, heff⟩ | ⟨hs, m, heff⟩
  · simp [heff, hs, h]
  · rw [heff, hs, Engine.tryStart_errNoKey, Engine.tryStart_busy, Engine.prepare_errNoKey, Engine.prepare_busy, h, hb]
    split <;> simp

/-! ### KEYCLR while idle (R98) -/

theorem Instr.effect_keyclr_busy {i : Instr} {g : Engine} (h : i.hasKeyclr = true) (hb : g.busy = false) :
    (Instr.effect i g).busy = false := by
  rcases Instr.effect_command_cases (.inr h) g with ⟨-, heff⟩ | ⟨hs, -⟩
  · rw [heff, Engine.prepare_busy, hb]
  · rw [Instr.effect_start_busy hs hb, h]; simp

/-- A NOP word without CLR leaves DONE and the error bits. -/
theorem Instr.effect_keyclr_nop_flags {i : Instr} (h : i.hasKeyclr = true) (hs : i.isStart = false)
    (hc : i.hasClr = false) (g : Engine) :
    (Instr.effect i g).done = g.done ∧ (Instr.effect i g).errNoKey = g.errNoKey ∧
    (Instr.effect i g).errBusy = g.errBusy ∧ (Instr.effect i g).errCmd = g.errCmd := by
  rcases Instr.effect_command_cases (.inr h) g with ⟨-, heff⟩ | ⟨hstart, -⟩
  · simp [heff, hc]
  · exact absurd hstart (by simp [hs])

/-! ### the statements -/

/-- Settles O27: register by register from the preparation; an illegal word raises an error and clears none. -/
theorem clrClearsDoneAndErrors : Obligations.ClrClearsDoneAndErrors := by
  unfold Obligations.ClrClearsDoneAndErrors
  constructor
  · intro d s
    refine ⟨_, exec_eq _ s, ?_⟩
    rw [Instr.hostEngine_illegal]
    exact ⟨Engine.raise_done _ _, Engine.raise_keeps_errors _ _⟩
  · intro i s h
    have hwrite := Instr.isWrite_of_hasClr h
    refine ⟨_, exec_eq i s, ?idle, fun hb => Instr.hostEngine_busy hwrite hb⟩
    case idle =>
      intro hb
      rw [Instr.hostEngine_idle hwrite hb]
      obtain ⟨hdone, herrBusy, herrCmd⟩ := Instr.effect_clr_flags h s.eng
      refine ⟨hdone, herrBusy, herrCmd, Instr.effect_clr_errNoKey h hb, Instr.effect_command_data (.inl h) _, ?key,
        Instr.effect_command_idle (.inl h)⟩
      case key => intro hk; simpa [hk] using Instr.effect_command_key (.inl h) s.eng

/-- Settles O28: KEYCLR leaves KEY_WR = 0 before the start is tried, and a start needs all four bits. -/
theorem keyclrZeroesKey : Obligations.KeyclrZeroesKey := by
  unfold Obligations.KeyclrZeroesKey
  constructor
  · intro i s h hb
    obtain ⟨t, ht, heng⟩ := exec_write_idle (Instr.isWrite_of_hasKeyclr h) hb
    have hkey := (Instr.effect_command_key (.inr h) s.eng).1
    have hkeyWr := Instr.effect_keyclr_keyWr h s.eng
    refine ⟨t, ht, ?_⟩
    rw [heng]
    refine ⟨by rw [hkey, h]; rfl, hkeyWr, by rw [Engine.keyValid_eq, hkeyWr]; rfl, Instr.effect_command_data (.inr h) _,
      Instr.effect_keyclr_busy h hb, ?start, fun hs hc => Instr.effect_keyclr_nop_flags h hs hc _⟩
    case start => exact fun hs => Instr.effect_start_errNoKey hs (by simp [h])
  · intro j u hj hb hk
    have hv : (u.eng.keyValid && !j.hasKeyclr) = false := by simp [Engine.keyValid_eq, hk]
    obtain ⟨v, hexec, heng⟩ := exec_write_idle (Instr.isWrite_of_isStart hj) hb
    exact ⟨v, hexec, by rw [heng, Instr.effect_start_busy hj hb, hv], by rw [heng, Instr.effect_start_errNoKey hj hv]⟩

/-- Settles O29: the decoder's last row, whose effect is to raise ErrCmd. -/
theorem illegalWordRaisesErrCmd : Obligations.IllegalWordRaisesErrCmd := by
  unfold Obligations.IllegalWordRaisesErrCmd
  exact fun d s h => ⟨(decode_wrCtrl_word d).trans (decodeCtrl_illegal h), exec_write_idle_eq rfl, exec_write_busy rfl⟩

/-- Settles O49: before the last round the completion check fails, and the bus adds ERR_BUSY at most to the round. -/
theorem nothingButResetAborts : Obligations.NothingButResetAborts := by
  unfold Obligations.NothingButResetAborts
  constructor
  · intro s hr hb hrc
    obtain ⟨e, hnext⟩ := BusCycle.nextEngine_busy hr hb
    have hc : s.eng.completes = false := Bool.eq_false_iff.2 (mt s.eng.completes_iff.1 hrc)
    refine ⟨_, step_eq s, ?_⟩
    rw [hnext, Engine.engineStep_busy hb]
    exact ⟨by rw [Engine.round_busy_of_busy hb, hc]; rfl, Engine.round_rc _, rfl⟩
  · intro s hr
    obtain ⟨t, ht, heng⟩ := step_reset hr
    exact ⟨t, ht, by rw [heng]; rfl⟩

/-- Settles O22: the effect is the preparation alone; with both fields 0 the preparation is the identity. -/
theorem nopWordPerformsOnlyItsFields : Obligations.NopWordPerformsOnlyItsFields := by
  unfold Obligations.NopWordPerformsOnlyItsFields
  intro clr keyclr s
  refine ⟨(decode_wrCtrl_word _).trans (decodeCtrl_nop_word clr keyclr), ?idle, ?zero, exec_write_busy rfl⟩
  case idle =>
    intro hb
    rw [exec_write_idle_eq rfl hb, Instr.effect, Engine.prepare_eq_copies]
    simp [Bool.and_comm]
  case zero =>
    intro hb
    have hdec : decode 0xE00000000#36 = .wrCtrlNop false false := by decide
    rw [hdec, exec_write_idle_eq rfl hb]
    rfl

end Sys2Proof.Machine

/-! PROOFS. What a transaction does to the error bits and to DONE, and what an edge commits of it; the statements on
`60_exceptions.md` R106, R108, R109 and R116. -/

namespace Sys2Proof.Machine

open Sys2Proof

/-! ### a start without a whole key (R116) -/

/-- The key test after the preparation fails, so of the start only its clearing of DONE and ErrNoKey are left. -/
theorem Engine.tryStart_prepare_refused (m : Mode) {clr keyclr : Bool} {g : Engine}
    (h : g.keyWr ≠ 0b1111#4 ∨ keyclr = true) :
    (g.prepare clr keyclr).tryStart m = { g with
      done := false
      errNoKey := true
      errBusy := g.errBusy && !clr
      errCmd := g.errCmd && !clr
      key := if keyclr then ⟨0#32, 0#32, 0#32, 0#32⟩ else g.key
      keyWr := if keyclr then 0b0000#4 else g.keyWr } := by
  have hnotWhole : (g.prepare clr keyclr).keyWr ≠ 0b1111#4 := by
    rw [Ne, Engine.prepare_keyWr_whole_iff, Engine.keyValid_eq]
    rcases h with h | h <;> simp [h]
  rw [Engine.tryStart_refused m hnotWhole]
  apply Engine.ext_registers <;> simp

/-- Settles O25: either word prepares and then has its start refused. -/
theorem startWithoutWholeKeyIsRefused : Obligations.StartWithoutWholeKeyIsRefused := by
  unfold Obligations.StartWithoutWholeKeyIsRefused
  rintro i clr keyclr s (rfl | rfl) hb hk
  · rw [exec_write_idle_eq rfl hb, Instr.effect, Engine.tryStart_prepare_refused .enc hk]
  · rw [exec_write_idle_eq rfl hb, Instr.effect, Engine.tryStart_prepare_refused .dec hk]

/-! ### a transaction on an idle engine, register by register -/

theorem Instr.effect_read {i : Instr} (h : i.isWrite = false) (g : Engine) : Instr.effect i g = g := by
  cases i with
  | rdKey _ | rdData _ | rdCtrl | rdStatus => rfl
  | _ => exact nomatch h

/-- While idle the gate is open to every transaction, read or write. -/
theorem Instr.hostEngine_of_idle (i : Instr) {g : Engine} (hb : g.busy = false) :
    Instr.hostEngine i g = Instr.effect i g := by
  cases h : i.isWrite with
  | false => rw [Instr.hostEngine_read g h, Instr.effect_read h]
  | true => exact Instr.hostEngine_idle h hb

/-- DONE is cleared by CLR and by every start word, accepted or not (`10_state.md` R27). -/
theorem Instr.effect_done (i : Instr) (g : Engine) :
    (Instr.effect i g).done = (g.done && !(i.hasClr || i.isStart)) := by
  cases i <;> simp [Instr.effect, Instr.hasClr, Instr.isStart]

/-- No effect behind the gate raises ErrBusy. -/
theorem Instr.effect_errBusy (i : Instr) (g : Engine) :
    (Instr.effect i g).errBusy = (g.errBusy && !i.hasClr) := by
  cases i <;> simp [Instr.effect, Instr.hasClr]

/-- The illegal word alone raises ErrCmd. -/
theorem Instr.effect_errCmd_cases (i : Instr) (g : Engine) :
    (∃ d, i = .wrCtrlIllegal d) ∧ (Instr.effect i g).errCmd = true ∨
    (Instr.effect i g).errCmd = (g.errCmd && !i.hasClr) := by
  cases i with
  | wrCtrlIllegal d => exact .inl ⟨⟨d, rfl⟩, rfl⟩
  | _ => right; simp [Instr.effect, Instr.hasClr]

/-- A start word alone raises ErrNoKey. -/
theorem Instr.effect_errNoKey_cases (i : Instr) (g : Engine) :
    i.isStart = true ∧ (Instr.effect i g).errNoKey = true ∨
    (Instr.effect i g).errNoKey = (g.errNoKey && !i.hasClr) := by
  cases i with
  | wrCtrlEnc clr keyclr | wrCtrlDec clr keyclr =>
    by_cases hw : (g.prepare clr keyclr).keyWr = 0b1111#4
    · right; rw [Instr.effect, Engine.tryStart_errNoKey, if_pos hw]; exact Engine.prepare_errNoKey _ _ _
    · left; exact ⟨rfl, by rw [Instr.effect, Engine.tryStart_errNoKey, if_neg hw]⟩
  | _ => right; simp [Instr.effect, Instr.hasClr]

/-! ### one error per transaction (R106) -/

/-- A transaction that leaves ERR_BUSY set found it set, or is a write that found the engine busy. -/
theorem Instr.hostEngine_errBusy_raised {i : Instr} {g : Engine} (h : (Instr.hostEngine i g).errBusy = true) :
    g.errBusy = true ∨ g.busy = true ∧ i.isWrite = true := by
  cases hb : g.busy with
  | false =>
    rw [Instr.hostEngine_of_idle i hb, Instr.effect_errBusy, Bool.and_eq_true] at h
    exact .inl h.1
  | true =>
    rcases Instr.hostEngine_busy_cases i hb with heq | ⟨hwrite, -⟩
    · exact .inl (heq ▸ h)
    · exact .inr ⟨rfl, hwrite⟩

/-- While busy a transaction changes neither ERR_CMD nor ERR_NOKEY: the gate raises ErrBusy first. -/
theorem Instr.hostEngine_busy_errors (i : Instr) {g : Engine} (hb : g.busy = true) :
    (Instr.hostEngine i g).errCmd = g.errCmd ∧ (Instr.hostEngine i g).errNoKey = g.errNoKey := by
  rcases Instr.hostEngine_busy_cases i hb with heq | ⟨-, heq⟩ <;> simp [heq]

/-- A transaction that leaves ERR_CMD set found it set, or is an illegal word that found the engine idle. -/
theorem Instr.hostEngine_errCmd_raised {i : Instr} {g : Engine} (h : (Instr.hostEngine i g).errCmd = true) :
    g.errCmd = true ∨ g.busy = false ∧ ∃ d, i = .wrCtrlIllegal d := by
  cases hb : g.busy with
  | true => exact .inl ((Instr.hostEngine_busy_errors i hb).1 ▸ h)
  | false =>
    rw [Instr.hostEngine_of_idle i hb] at h
    rcases Instr.effect_errCmd_cases i g with ⟨hill, -⟩ | heq
    · exact .inr ⟨rfl, hill⟩
    · exact .inl (Bool.and_elim_left (heq ▸ h))

/-- A transaction that leaves ERR_NOKEY set found it set, or is a start word that found the engine idle. -/
theorem Instr.hostEngine_errNoKey_raised {i : Instr} {g : Engine} (h : (Instr.hostEngine i g).errNoKey = true) :
    g.errNoKey = true ∨ g.busy = false ∧ i.isStart = true := by
  cases hb : g.busy with
  | true => exact .inl ((Instr.hostEngine_busy_errors i hb).2 ▸ h)
  | false =>
    rw [Instr.hostEngine_of_idle i hb] at h
    rcases Instr.effect_errNoKey_cases i g with ⟨hstart, -⟩ | heq
    · exact .inr ⟨rfl, hstart⟩
    · exact .inl (Bool.and_elim_left (heq ▸ h))

/-- Settles O31: who can have raised each error; a busy write stops at the gate, and the round of its cycle commits. -/
theorem oneErrorPerTransaction : Obligations.OneErrorPerTransaction := by
  unfold Obligations.OneErrorPerTransaction
  constructor
  · intro i s
    refine ⟨_, exec_eq i s, Instr.hostEngine_errBusy_raised, Instr.hostEngine_errCmd_raised,
      Instr.hostEngine_errNoKey_raised, fun hb hwrite => Instr.hostEngine_busy hwrite hb, ?illegal⟩
    case illegal => rintro hb d rfl; exact Instr.hostEngine_of_idle (.wrCtrlIllegal d) hb
  · intro i s hcarries hwrite hb hrc
    have hc : s.eng.completes = true := s.eng.completes_iff.2 hrc
    refine ⟨_, step_of_carries hcarries, ?_⟩
    rw [Instr.hostEngine_busy hwrite hb, Engine.commitRound_busy _ hb]
    exact ⟨rfl, by rw [Engine.round_done_eq_or, hc, Bool.or_true], by rw [Engine.round_busy_of_busy hb, hc]; rfl,
      rfl, rfl⟩

/-! ### the error bits are sticky (R108) -/

/-- Every error bit set in `g` is set in `h`. -/
def Engine.ErrorsKept (g h : Engine) : Prop :=
  (g.errNoKey = true → h.errNoKey = true) ∧ (g.errBusy = true → h.errBusy = true) ∧ (g.errCmd = true → h.errCmd = true)

theorem Engine.ErrorsKept.refl (g : Engine) : g.ErrorsKept g := ⟨id, id, id⟩

/-- Without CLR an effect only raises errors. -/
theorem Instr.effect_keeps_errors {i : Instr} (h : i.hasClr = false) (g : Engine) :
    g.ErrorsKept (Instr.effect i g) := by
  refine ⟨fun hn => ?_, fun hbusy => ?_, fun hcmd => ?_⟩
  · rcases Instr.effect_errNoKey_cases i g with ⟨-, heq⟩ | heq <;> simp [heq, hn, h]
  · simp [Instr.effect_errBusy, hbusy, h]
  · rcases Instr.effect_errCmd_cases i g with ⟨-, heq⟩ | heq <;> simp [heq, hcmd, h]

/-- A transaction clears an error only by CLR on an idle engine. -/
theorem Instr.hostEngine_keeps_errors {i : Instr} {g : Engine} (h : g.busy = false → i.hasClr = false) :
    g.ErrorsKept (Instr.hostEngine i g) := by
  cases hb : g.busy with
  | false =>
    rw [Instr.hostEngine_of_idle i hb]
    exact Instr.effect_keeps_errors (h hb) g
  | true =>
    rcases Instr.hostEngine_busy_cases i hb with heq | ⟨-, heq⟩ <;> rw [heq]
    · exact Engine.ErrorsKept.refl g
    · exact Engine.raise_keeps_errors .busy g

/-- The engine's round writes no error bit, so the edge keeps what the host's part kept. -/
theorem Engine.ErrorsKept.commitRound {g h : Engine} (hk : g.ErrorsKept h) : g.ErrorsKept (g.commitRound h) := by
  simpa [Engine.ErrorsKept] using hk

/-- Settles O32: the host's part clears no error, since without CLR while idle nothing does, and the edge adds none. -/
theorem errorBitsAreSticky : Obligations.ErrorBitsAreSticky := by
  unfold Obligations.ErrorBitsAreSticky
  intro s t hstep hr hclr
  have hhost : s.eng.ErrorsKept (s.ports.hostEngine s.eng) := by
    cases hsel : s.ports.sel with
    | false =>
      rw [BusCycle.hostEngine_no_transaction _ hsel]
      exact Engine.ErrorsKept.refl _
    | true =>
      have hc : s.carries (decode s.ports.word) := ⟨hr, hsel, rfl⟩
      rw [State.carries_hostEngine hc]
      exact Instr.hostEngine_keeps_errors fun hb => Bool.eq_false_iff.2 fun h => hclr ⟨hb, _, hc, h⟩
  rw [(step_next_iff s t).1 hstep, BusCycle.nextEngine_run _ hr]
  exact hhost.commitRound

/-! ### the done output (R109) -/

theorem Engine.completes_eq (g : Engine) : g.completes = (g.rc == 31#6) := by
  rw [Bool.eq_iff_iff, Engine.completes_iff, beq_iff_eq]

/-- In a busy cycle the host has no say in DONE: it rises with the last round (`41_encrypt.md` R78). -/
theorem Engine.commitRound_busy_done {g : Engine} (h : Engine) (hb : g.busy = true) :
    (g.commitRound h).done = (g.done || g.rc == 31#6) := by
  rw [Engine.commitRound_busy h hb, ← Engine.completes_eq]
  exact Engine.round_done_eq_or g

/-- Settles O33: busy, the round writes DONE; idle, the transaction's effect does; reset clears it. -/
theorem doneOutputRisesAndFalls : Obligations.DoneOutputRisesAndFalls := by
  unfold Obligations.DoneOutputRisesAndFalls
  refine ⟨fun s => rfl, fun s t hstep => ?_⟩
  rw [(step_next_iff s t).1 hstep]
  unfold State.donePin
  refine ⟨?reset, ?busy, ?noTransaction, ?transaction⟩
  case reset => intro hr; rw [BusCycle.nextEngine_reset _ hr]; rfl
  case busy => intro hr hb; rw [BusCycle.nextEngine_run _ hr, Engine.commitRound_busy_done _ hb]
  case noTransaction =>
    intro hr hb hsel
    rw [BusCycle.nextEngine_run _ hr, Engine.commitRound_idle _ hb, BusCycle.hostEngine_no_transaction _ hsel]
  case transaction =>
    intro hr hb i hcarries
    rw [BusCycle.nextEngine_run _ hr, Engine.commitRound_idle _ hb, State.carries_hostEngine hcarries,
      Instr.hostEngine_of_idle i hb, Instr.effect_done]

end Sys2Proof.Machine

/-! PROOFS. The encoder and the decoder invert each other, and the decoder agrees with the opcode table; the statements on
`30_encoding.md` R47 to R51, R55 and R59. -/

namespace Sys2Proof

/-! ### the words of the remaining rows -/

@[simp] theorem decode_rdStatus_word (d : Word) : decode (transactionWord false 7#3 d) = .rdStatus := by
  rw [decode_transactionWord]; rfl

theorem decodeCtrl_enc_word (clr keyclr : Bool) :
    decodeCtrl (commandWord 0b01#2 clr keyclr) = .wrCtrlEnc clr keyclr := by
  cases clr <;> cases keyclr <;> rfl

theorem decodeCtrl_dec_word (clr keyclr : Bool) :
    decodeCtrl (commandWord 0b10#2 clr keyclr) = .wrCtrlDec clr keyclr := by
  cases clr <;> cases keyclr <;> rfl

/-- What makes a command word illegal: `RSV` is not 0, or `CMD` is 3 (`30_encoding.md` R50). -/
theorem commandLegal_eq_false_iff (d : Word) :
    commandLegal d = false ↔ rsvField d ≠ 0#28 ∨ cmdField d = 0b11#2 := by
  simp only [commandLegal, Bool.and_eq_false_iff, beq_eq_false_iff_ne, bne_eq_false_iff_eq]

/-- Settles O1: row by row; WR_CTRL.ILLEGAL comes back because its word is not legal. -/
theorem decodeEncodeRoundTrip : Obligations.DecodeEncodeRoundTrip := by
  unfold Obligations.DecodeEncodeRoundTrip
  intro i hwf
  cases i with
  | rdKey n => exact decode_rdKey_word n _
  | rdData n => exact decode_rdData_word n _
  | rdCtrl => exact decode_rdCtrl_word _
  | rdStatus => exact decode_rdStatus_word _
  | wrKey n d => exact decode_wrKey_word n d
  | wrData n d => exact decode_wrData_word n d
  | wrCtrlNop clr keyclr => exact (decode_wrCtrl_word _).trans (decodeCtrl_nop_word clr keyclr)
  | wrCtrlEnc clr keyclr => exact (decode_wrCtrl_word _).trans (decodeCtrl_enc_word clr keyclr)
  | wrCtrlDec clr keyclr => exact (decode_wrCtrl_word _).trans (decodeCtrl_dec_word clr keyclr)
  | wrCtrlIllegal d =>
    have hillegal : commandLegal d = false := by simpa [Instr.wellFormed] using hwf
    exact (decode_wrCtrl_word d).trans (decodeCtrl_illegal ((commandLegal_eq_false_iff d).1 hillegal))
  | wrStatus d => exact decode_wrStatus_word d

/-- Settles O3: the decoder answers WR_CTRL.ILLEGAL for illegal command words only. -/
theorem everyWordDecodesWellFormed : Obligations.EveryWordDecodesWellFormed := by
  unfold Obligations.EveryWordDecodesWellFormed
  exact decode_wellFormed

/-! ### the word of a decoded transaction -/

/-- The eight addresses: four key words, two block words, CTRL and STATUS (`20_memory.md` R36). -/
theorem addr_cases (a : BitVec 3) :
    (∃ n : KeyReg, a = n.addr) ∨ (∃ n : DataReg, a = n.addr) ∨ a = 6#3 ∨ a = 7#3 := by
  have hall : (a = KeyReg.k0.addr ∨ a = KeyReg.k1.addr ∨ a = KeyReg.k2.addr ∨ a = KeyReg.k3.addr) ∨
      (a = DataReg.v0.addr ∨ a = DataReg.v1.addr) ∨ a = 6#3 ∨ a = 7#3 := by
    revert a; decide
  rcases hall with (h | h | h | h) | (h | h) | h
  · exact .inl ⟨_, h⟩
  · exact .inl ⟨_, h⟩
  · exact .inl ⟨_, h⟩
  · exact .inl ⟨_, h⟩
  · exact .inr (.inl ⟨_, h⟩)
  · exact .inr (.inl ⟨_, h⟩)
  · exact .inr (.inr h)

/-- A command word is spelt bit for bit: a legal one is made of CMD, CLR and KEYCLR, an illegal one is carried whole. -/
theorem encode_decodeCtrl (d : Word) : encode (decodeCtrl d) = transactionWord true 6#3 d := by
  unfold decodeCtrl
  split
  next => rfl
  next hne =>
    have hd := commandWord_bits (not_not.1 hne)
    split <;> rename_i h1 h0 <;> rw [h1, h0] at hd
    case h_4 => rfl
    all_goals exact congrArg (transactionWord true 6#3) hd.symm

theorem encode_decode_write (a : BitVec 3) (d : Word) :
    encode (decode (transactionWord true a d)) = transactionWord true a d := by
  rcases addr_cases a with ⟨n, rfl⟩ | ⟨n, rfl⟩ | rfl | rfl
  · rw [decode_wrKey_word]; rfl
  · rw [decode_wrData_word]; rfl
  · rw [decode_wrCtrl_word]; exact encode_decodeCtrl d
  · rw [decode_wrStatus_word]; rfl

theorem encode_decode_read (a : BitVec 3) (d : Word) :
    encode (decode (transactionWord false a d)) = transactionWord false a 0#32 := by
  rcases addr_cases a with ⟨n, rfl⟩ | ⟨n, rfl⟩ | rfl | rfl
  · rw [decode_rdKey_word]; rfl
  · rw [decode_rdData_word]; rfl
  · rw [decode_rdCtrl_word]; rfl
  · rw [decode_rdStatus_word]; rfl

/-- The mask 0xF00000000 keeps WE and A and clears D. -/
theorem transactionWord_clear_data (we : Bool) (a : BitVec 3) (d : Word) :
    transactionWord we a d &&& 0xF00000000#36 = transactionWord we a 0#32 := by
  have ha : a &&& BitVec.setWidth 3 0b1111#4 = a := by revert a; decide
  rw [transactionWord_mask we a d _ 0b1111#4 (by decide), ha]
  exact congrArg (transactionWord · a 0#32) (Bool.and_true we)

/-- The canonical word of a decoded transaction, by its WE. -/
theorem encode_decode (tw : TransactionWord) :
    encode (decode tw) = if tw.getLsbD 35 then tw else tw &&& 0xF00000000#36 := by
  rw [← transactionWord_fields tw, transactionWord_we]
  cases tw.getLsbD 35 with
  | false => rw [encode_decode_read, if_neg Bool.false_ne_true, transactionWord_clear_data]
  | true => rw [encode_decode_write, if_pos rfl]

/-- Settles O2: a write comes back bit for bit, a read without its D. -/
theorem encodeDecodeIsCanonical : Obligations.EncodeDecodeIsCanonical := by
  unfold Obligations.EncodeDecodeIsCanonical
  exact encode_decode

/-! ### the legal command words -/

/-- Settles O7: with RSV = 0 a word has four free bits, and CMD = 3 leaves twelve of the sixteen. -/
theorem legalCommandWordsAreTwelve : Obligations.LegalCommandWordsAreTwelve := by
  unfold Obligations.LegalCommandWordsAreTwelve
  refine fun d => ⟨fun h => ?legal, fun h => ?listed⟩
  case legal =>
    have hrsv : rsvField d = 0#28 := by
      simp only [commandLegal, Bool.and_eq_true, beq_iff_eq] at h
      exact h.1
    have hbits := commandWord_bits hrsv
    generalize d.getLsbD 1 = b1, d.getLsbD 0 = b0, clrField d = c, keyclrField d = k at hbits
    subst hbits
    revert b1 b0 c k
    decide
  case listed => fin_cases h <;> rfl

/-- Settles O6: the decoder evaluated on each word. -/
theorem specProgramWordsDecode : Obligations.SpecProgramWordsDecode := by
  unfold Obligations.SpecProgramWordsDecode
  decide

/-! ### the opcode table -/

/-- The rows of `opcode_table.json`, one instruction of each row standing for it (`30_encoding.md` R59). -/
def opcodeTable : List OpcodeRow :=
  [.rdKey .k0, .rdData .v0, .rdCtrl, .rdStatus, .wrKey .k0 0#32, .wrData .v0 0#32, .wrCtrlNop false false,
    .wrCtrlEnc false false, .wrCtrlDec false false, .wrCtrlIllegal 0#32, .wrStatus 0#32].map opcodeRow

theorem opcodeRow_mem_table (i : Instr) : opcodeRow i ∈ opcodeTable := by
  cases i <;> simp [opcodeTable, opcodeRow]

/-- Two rows that a common word matches agree on the bits both masks select. -/
theorem OpcodeRow.holds_compatible {r q : OpcodeRow} {tw : TransactionWord} (hr : r.holds tw = true)
    (hq : q.holds tw = true) : r.bits &&& q.mask = q.bits &&& r.mask := by
  have hr' : tw &&& r.mask = r.bits := by simpa [OpcodeRow.holds] using hr
  have hq' : tw &&& q.mask = q.bits := by simpa [OpcodeRow.holds] using hq
  rw [← hr', ← hq', BitVec.and_assoc, BitVec.and_assoc, BitVec.and_comm r.mask]

/-- The encoded instruction matches its row, row by row. -/
theorem opcodeRow_holds_encode (i : Instr) : (opcodeRow i).holds (encode i) = true := by
  cases i with
  | rdKey n => exact Laws.EncodeRow.rdKey n
  | rdData n => exact Laws.EncodeRow.rdData n
  | rdCtrl => exact Laws.EncodeRow.rdCtrl
  | rdStatus => exact Laws.EncodeRow.rdStatus
  | wrKey n d => exact Laws.EncodeRow.wrKey n d
  | wrData n d => exact Laws.EncodeRow.wrData n d
  | wrCtrlNop clr keyclr => exact Laws.EncodeRow.wrCtrlNop clr keyclr
  | wrCtrlEnc clr keyclr => exact Laws.EncodeRow.wrCtrlEnc clr keyclr
  | wrCtrlDec clr keyclr => exact Laws.EncodeRow.wrCtrlDec clr keyclr
  | wrCtrlIllegal d => exact Laws.EncodeRow.wrCtrlIllegal d
  | wrStatus d => exact Laws.EncodeRow.wrStatus d

/-- The mask of a read's row selects no bit of D. -/
theorem opcodeRow_read_mask {i : Instr} (h : i.isWrite = false) :
    0xF00000000#36 &&& (opcodeRow i).mask = (opcodeRow i).mask := by
  cases i with
  | rdKey _ | rdData _ | rdCtrl | rdStatus => simp only [opcodeRow]; decide
  | _ => exact nomatch h

/-- A word and the canonical word of what it decodes to match the same row: the two differ in a read's D at most. -/
theorem opcodeRow_decode_holds (tw : TransactionWord) : (opcodeRow (decode tw)).holds tw = true := by
  have hcanonical := opcodeRow_holds_encode (decode tw)
  rw [encode_decode] at hcanonical
  cases hwe : tw.getLsbD 35 with
  | true => simpa only [hwe, if_true] using hcanonical
  | false =>
    have hread : (decode tw).isWrite = false := by rw [Machine.decode_isWrite, hwe]
    simpa only [hwe, OpcodeRow.holds, Bool.false_eq_true, if_false, BitVec.and_assoc, opcodeRow_read_mask hread]
      using hcanonical

/-- The mask 0xFFFFFFFF3 of the rows NOP, ENC and DEC keeps RSV and CMD (`30_encoding.md` R50). -/
theorem rsvField_dataField_eq_masked (tw : TransactionWord) :
    rsvField (dataField tw) = (tw &&& 0xFFFFFFFF3#36).extractLsb' 4 28 := by
  have hmask : BitVec.extractLsb' 4 28 0xFFFFFFFF3#36 = BitVec.allOnes 28 := by decide
  rw [BitVec.extractLsb'_and, hmask, BitVec.and_allOnes]
  apply BitVec.eq_of_getLsbD_eq
  intro j hj
  simp [rsvField, dataField]

theorem cmdField_dataField_eq_masked (tw : TransactionWord) :
    cmdField (dataField tw) = (tw &&& 0xFFFFFFFF3#36).extractLsb' 0 2 := by
  have hmask : BitVec.extractLsb' 0 2 0xFFFFFFFF3#36 = BitVec.allOnes 2 := by decide
  rw [BitVec.extractLsb'_and, hmask, BitVec.and_allOnes]
  apply BitVec.eq_of_getLsbD_eq
  intro j hj
  simp [cmdField, dataField]

/-- The rows of the legal command words: RSV is 0 and CMD is not 3, CLR and KEYCLR are free (`30_encoding.md` R50). -/
def OpcodeRow.isLegalCommand (r : OpcodeRow) : Bool :=
  r.mask == 0xFFFFFFFF3#36 && (r.bits == 0xE00000000#36 || r.bits == 0xE00000001#36 || r.bits == 0xE00000002#36)

theorem OpcodeRow.commandLegal_of_holds {r : OpcodeRow} {tw : TransactionWord} (hr : r.isLegalCommand = true)
    (h : r.holds tw = true) : commandLegal (dataField tw) = true := by
  simp only [isLegalCommand, Bool.and_eq_true, Bool.or_eq_true, beq_iff_eq, or_assoc] at hr
  obtain ⟨hmask, hbits⟩ := hr
  have htw : tw &&& 0xFFFFFFFF3#36 = r.bits := by simpa [OpcodeRow.holds, hmask] using h
  rw [commandLegal, rsvField_dataField_eq_masked, cmdField_dataField_eq_masked, htw]
  rcases hbits with hb | hb | hb <;> rw [hb] <;> rfl

/-- Two rows of the table that agree on their common bits are one row, or WR_CTRL.ILLEGAL and a legal command word. -/
theorem opcodeTable_overlap : ∀ r ∈ opcodeTable, ∀ q ∈ opcodeTable, r.bits &&& q.mask = q.bits &&& r.mask →
    r = q ∨ r.mnemonic = "WR_CTRL.ILLEGAL" ∨ q.mnemonic = "WR_CTRL.ILLEGAL" ∧ r.isLegalCommand = true := by
  decide

/-- Only WR_CTRL.ILLEGAL has its mnemonic. -/
theorem opcodeRow_illegal {i : Instr} (h : (opcodeRow i).mnemonic = "WR_CTRL.ILLEGAL") :
    ∃ d, i = .wrCtrlIllegal d := by
  cases i with
  | wrCtrlIllegal d => exact ⟨d, rfl⟩
  | _ => simp [opcodeRow] at h

/-- WR_CTRL.ILLEGAL is decoded from words with an illegal command word only (`30_encoding.md` R59). -/
theorem commandLegal_of_decode_illegal {tw : TransactionWord} {d : Word} (h : decode tw = .wrCtrlIllegal d) :
    commandLegal (dataField tw) = false := by
  have hwe : tw.getLsbD 35 = true := by rw [← Machine.decode_isWrite, h]; rfl
  have htw : tw = transactionWord true 6#3 d := by
    simpa only [h, hwe, if_true, encode] using (encode_decode tw).symm
  have hwf : (Instr.wrCtrlIllegal d).wellFormed = true := h ▸ decode_wellFormed tw
  rw [htw, dataField_transactionWord]
  simpa [Instr.wellFormed] using hwf

/-- Settles O4: a second row that matches is WR_CTRL.ILLEGAL, for a legal command word never decodes to that row. -/
theorem decodeAgreesWithOpcodeTable : Obligations.DecodeAgreesWithOpcodeTable := by
  unfold Obligations.DecodeAgreesWithOpcodeTable
  refine fun tw => ⟨opcodeRow_decode_holds tw, fun i hi => ?_⟩
  have hcommon := OpcodeRow.holds_compatible hi (opcodeRow_decode_holds tw)
  rcases opcodeTable_overlap _ (opcodeRow_mem_table i) _ (opcodeRow_mem_table (decode tw)) hcommon with
    hsame | hillegal | ⟨hillegal, hlegal⟩
  · exact .inl hsame
  · exact .inr hillegal
  · obtain ⟨d, hd⟩ := opcodeRow_illegal hillegal
    have hnot := commandLegal_of_decode_illegal hd
    rw [OpcodeRow.commandLegal_of_holds hlegal hi] at hnot
    exact nomatch hnot

end Sys2Proof

/-! PROOFS. The read column of the register map, the frames of the writes, accepted starts, and cycles that always complete;
the statements on `20_memory.md` R36, `40_register_access.md` R62, R64, R66 and R69, `60_exceptions.md` R104 and
`70_reset_and_hazards.md` R118. -/

namespace Sys2Proof.Machine

open Sys2Proof

/-! ### reads -/

/-- The decoder and the register map agree on what a read of an address answers (`20_memory.md` R36). -/
theorem Instr.answer_read_eq_mapRead (a : BitVec 3) (d : Word) (g : Engine) :
    Instr.answer (decode (transactionWord false a d)) g = g.mapRead a := by
  rcases addr_cases a with ⟨n, rfl⟩ | ⟨n, rfl⟩ | rfl | rfl
  · rw [decode_rdKey_word]; cases n <;> rfl
  · rw [decode_rdData_word]; cases n <;> rfl
  · rw [decode_rdCtrl_word]; rfl
  · rw [decode_rdStatus_word]; rfl

/-- Settles O13: a word with WE = 0 decodes to a read, which only answers. -/
theorem readsAnswerMapAndChangeNothing : Obligations.ReadsAnswerMapAndChangeNothing := by
  unfold Obligations.ReadsAnswerMapAndChangeNothing
  intro a d s
  have hread : (decode (transactionWord false a d)).isWrite = false := by rw [decode_isWrite, transactionWord_we]
  exact ⟨_, exec_read s hread, Instr.answer_read_eq_mapRead a d s.eng, rfl, rfl⟩

/-- Settles O11: RD_STATUS is a read whose answer is STATUS. -/
theorem rdStatusReturnsStatus : Obligations.RdStatusReturnsStatus := by
  unfold Obligations.RdStatusReturnsStatus
  exact fun d s => ⟨decode_rdStatus_word d, exec_read s rfl⟩

/-! ### the frames of the writes -/

/-- Settles O17: register by register. -/
theorem dataRegistersAreDistinct : Obligations.DataRegistersAreDistinct := by
  unfold Obligations.DataRegistersAreDistinct
  exact ⟨Key.get_set, Block.get_set⟩

/-- What is left of a write after the gate: ERR_BUSY raised while busy, the effect while idle. -/
theorem exec_write_next_cases {i : Instr} {s t : State} (hw : i.isWrite = true) (h : exec i s = .next t) :
    t.bus = s.bus ∧
      (s.eng.busy = true ∧ t.eng = s.eng.raise .busy ∨ s.eng.busy = false ∧ t.eng = Instr.effect i s.eng) := by
  rw [exec_next_iff] at h
  subst h
  cases hb : s.eng.busy with
  | true => exact ⟨rfl, .inl ⟨rfl, Instr.hostEngine_busy hw hb⟩⟩
  | false => exact ⟨rfl, .inr ⟨rfl, Instr.hostEngine_idle hw hb⟩⟩

/-- Settles O18: the gate writes ERR_BUSY alone, and `Engine.writeKey` the one word and its mark. -/
theorem wrKeyFrame : Obligations.WrKeyFrame := by
  unfold Obligations.WrKeyFrame
  intro n d s t h
  obtain ⟨hbus, ⟨hb, heng⟩ | ⟨hb, heng⟩⟩ := exec_write_next_cases rfl h
  · simp [heng, hb, hbus]
  · rw [heng, Instr.effect]
    refine ⟨fun m hm => ?key, fun m hm => ?keyWr, by simp [hbus]⟩
    case key => rw [Engine.writeKey_key, Key.get_set, if_neg hm]
    case keyWr => rw [Engine.writeKey_keyWr, keyWr_mark_getLsbD, decide_eq_false hm, Bool.false_or]

/-- Settles O19: the gate writes ERR_BUSY alone, and `Engine.writeData` the one word. -/
theorem wrDataFrame : Obligations.WrDataFrame := by
  unfold Obligations.WrDataFrame
  intro n d s t h
  obtain ⟨hbus, ⟨hb, heng⟩ | ⟨hb, heng⟩⟩ := exec_write_next_cases rfl h
  · simp [heng, hb, hbus]
  · rw [heng, Instr.effect]
    refine ⟨fun m hm => ?data, by simp [hbus]⟩
    case data => rw [Engine.writeData_data, Block.get_set, if_neg hm]

/-! ### the frame of the legal command words -/

/-- A legal command word prepares by its two fields and, but for NOP, tries the start of a mode (R66). -/
theorem Instr.effect_legal_command {i : Instr} {clr keyclr : Bool}
    (h : i = .wrCtrlNop clr keyclr ∨ i = .wrCtrlEnc clr keyclr ∨ i = .wrCtrlDec clr keyclr) (g : Engine) :
    i.isWrite = true ∧
    (i.isStart = false ∧ Instr.effect i g = g.prepare clr keyclr ∨
      i.isStart = true ∧ ∃ m, Instr.effect i g = (g.prepare clr keyclr).tryStart m) := by
  rcases h with rfl | rfl | rfl
  · exact ⟨rfl, .inl ⟨rfl, rfl⟩⟩
  · exact ⟨rfl, .inr ⟨rfl, .enc, rfl⟩⟩
  · exact ⟨rfl, .inr ⟨rfl, .dec, rfl⟩⟩

/-- Settles O30: the gate writes ERR_BUSY alone; the preparation writes what CLR and KEYCLR name, and a start writes SUM,
RC and MODE only when it raises BUSY. -/
theorem commandWordFrame : Obligations.CommandWordFrame := by
  unfold Obligations.CommandWordFrame
  intro i clr keyclr s t hi h
  obtain ⟨hwrite, heffect⟩ := Instr.effect_legal_command hi s.eng
  obtain ⟨hbus, ⟨hb, heng⟩ | ⟨hb, heng⟩⟩ := exec_write_next_cases hwrite h
  · simp [heng, hb, hbus]
  · rcases heffect with ⟨hstart, heffect⟩ | ⟨hstart, m, heffect⟩ <;> rw [heng, heffect]
    · simp +contextual [hb, hbus, hstart]
    · by_cases hk : (s.eng.prepare clr keyclr).keyWr = 0b1111#4
      · rw [Engine.tryStart_accepted m hk]
        simp +contextual [hb, hbus, hstart]
      · rw [Engine.tryStart_refused m hk]
        simp +contextual [hb, hbus, hstart]

/-! ### accepted starts -/

/-- The key test after a preparation without KEYCLR succeeds, so CLR and the start are all that happens. -/
theorem Engine.tryStart_prepare_accepted (m : Mode) (clr : Bool) {g : Engine} (h : g.keyWr = 0b1111#4) :
    (g.prepare clr false).tryStart m = { g with
      busy := true, mode := m, rc := 0#6, sum := m.initSum, done := false
      errNoKey := g.errNoKey && !clr
      errBusy := g.errBusy && !clr
      errCmd := g.errCmd && !clr } := by
  apply Engine.ext_registers <;> simp [h]

/-- Settles O23: the ENC word's effect while idle is an accepted start of mode encrypt. -/
theorem encStartIsAccepted : Obligations.EncStartIsAccepted := by
  unfold Obligations.EncStartIsAccepted
  intro clr s hb hk
  rw [exec_write_idle_eq rfl hb, Instr.effect, Engine.tryStart_prepare_accepted .enc clr hk]
  rfl

/-- Settles O24: the DEC word's effect while idle is an accepted start of mode decrypt. -/
theorem decStartIsAccepted : Obligations.DecStartIsAccepted := by
  unfold Obligations.DecStartIsAccepted
  intro clr s hb hk
  rw [exec_write_idle_eq rfl hb, Instr.effect, Engine.tryStart_prepare_accepted .dec clr hk]
  rfl

/-! ### every cycle -/

/-- Settles O34: `exec_eq` and `step_eq` name the next state. -/
theorem everyCycleCompletes : Obligations.EveryCycleCompletes := by
  unfold Obligations.EveryCycleCompletes
  exact ⟨fun i s => ⟨_, exec_eq i s⟩, fun s => ⟨_, step_eq s⟩⟩

/-- Settles O45: the edge commits the reset engine over whatever the host's part left. -/
theorem resetCycleRestoresResetValues : Obligations.ResetCycleRestoresResetValues := by
  unfold Obligations.ResetCycleRestoresResetValues
  exact fun s hr => ⟨_, step_eq s, BusCycle.nextEngine_reset _ hr, rfl⟩

/-- A table word that decodes is decoded from its transaction word, the low 36 bits. -/
theorem decode_of_decodeTableWord {nbits w : Nat} {i : Instr} (h : decodeTableWord nbits w = some i) :
    decode (BitVec.ofNat 36 (w % 2 ^ nbits)) = i := by
  unfold decodeTableWord decodeNumber at h
  by_cases hfits : w % 2 ^ nbits < 2 ^ 36
  · rw [if_pos hfits] at h
    exact Option.some.inj h
  · rw [if_neg hfits] at h
    exact nomatch h

/-- A state that presents `tw` carries what `tw` decodes to. -/
theorem State.present_carries (tw : TransactionWord) (s : State) : (s.present tw).carries (decode tw) :=
  ⟨rfl, rfl, congrArg decode (BusCycle.word_transact tw)⟩

/-- Settles O42: the word stands first on the bus, and a cycle takes the first input off. -/
theorem presentedWordRunsNext : Obligations.PresentedWordRunsNext := by
  unfold Obligations.PresentedWordRunsNext
  refine ⟨fun s nbits w i h => ⟨?carries, State.present_advanceBus _ s⟩, fun s t h => ?bus⟩
  case carries =>
    obtain rfl := decode_of_decodeTableWord h
    exact State.present_carries _ s
  case bus => rw [(step_next_iff s t).1 h]

end Sys2Proof.Machine

/-! PROOFS. Every named update of the engine keeps its invariant, and so does every cycle; the statements on `10_state.md`
R22, R24 and R26 to R28. -/

namespace Sys2Proof.Machine

open Sys2Proof

/-! ### reset and the updates that write no register the invariant speaks of -/

theorem Engine.inv_reset : Engine.reset.Inv where
  rcRange := by decide
  busyRunning := by decide
  idleWhole := by decide
  sumScheduled := by decide
  busyKey := by decide
  doneIdle := by decide
  unwrittenZero := fun n _ => by cases n <;> rfl

/-- Settles O47: the reset values one by one. -/
theorem resetMeetsInvariant : Obligations.ResetMeetsInvariant := by
  unfold Obligations.ResetMeetsInvariant
  exact Engine.inv_reset

/-- The invariant does not speak of DATA and the error bits, and DONE may be cleared at any time. -/
theorem Engine.Inv.congr {g h : Engine} (hg : g.Inv) (hk : h.key = g.key) (hs : h.sum = g.sum) (hr : h.rc = g.rc)
    (hm : h.mode = g.mode) (hb : h.busy = g.busy) (hw : h.keyWr = g.keyWr) (hd : h.done = true → g.done = true) :
    h.Inv where
  rcRange := hr ▸ hg.rcRange
  busyRunning := by rw [hb, hr]; exact hg.busyRunning
  idleWhole := by
    rw [hb, hr, hm]
    exact fun hidle => (hg.idleWhole hidle).imp_right fun ⟨hrc, hmode, hdone⟩ =>
      ⟨hrc, hmode, Bool.eq_false_iff.2 fun h => by simp [hd h] at hdone⟩
  sumScheduled := by rw [hs, hr, hm]; exact hg.sumScheduled
  busyKey := by rw [hb, hw]; exact hg.busyKey
  doneIdle := by rw [hb]; exact fun h => hg.doneIdle (hd h)
  unwrittenZero := by rw [hw, hk]; exact hg.unwrittenZero

theorem Engine.Inv.raise {g : Engine} (hg : g.Inv) (e : InterfaceError) : (g.raise e).Inv := by
  apply hg.congr <;> simp

theorem Engine.Inv.clearFlags {g : Engine} (hg : g.Inv) : g.clearFlags.Inv := by
  apply hg.congr <;> simp

theorem Engine.Inv.clearDone {g : Engine} (hg : g.Inv) : Engine.Inv { g with done := false } := by
  apply hg.congr <;> simp

theorem Engine.Inv.writeData {g : Engine} (hg : g.Inv) (n : DataReg) (d : Word) : (Engine.writeData n d g).Inv := by
  apply hg.congr <;> simp

theorem Engine.Inv.withErrBusy {g : Engine} (hg : g.Inv) (e : Bool) : Engine.Inv { g with errBusy := e } := by
  apply hg.congr <;> simp

/-! ### the updates of the key and the start, while idle -/

/-- While idle the key and KEY_WR may be written so long as an unmarked word is zero. -/
theorem Engine.Inv.withKey {g : Engine} (hg : g.Inv) (hb : g.busy = false) {k : Key} {w : BitVec 4}
    (hzero : ∀ n : KeyReg, w.getLsbD n.index = false → k.get n = 0#32) :
    Engine.Inv { g with key := k, keyWr := w } :=
  { hg with busyKey := fun h => absurd (hb.symm.trans h) Bool.false_ne_true, unwrittenZero := hzero }

/-- WR_KEYn marks the word it writes, so it leaves no unmarked word that is not zero. -/
theorem Engine.Inv.writeKey {g : Engine} (hg : g.Inv) (hb : g.busy = false) (n : KeyReg) (d : Word) :
    (Engine.writeKey n d g).Inv := by
  refine hg.withKey hb fun m hm => ?_
  rw [keyWr_mark_getLsbD, Bool.or_eq_false_iff, decide_eq_false_iff_not] at hm
  obtain ⟨hne, hunmarked⟩ := hm
  rw [Key.get_set, if_neg hne]
  exact hg.unwrittenZero m hunmarked

theorem Engine.Inv.clearKey {g : Engine} (hg : g.Inv) (hb : g.busy = false) : g.clearKey.Inv :=
  hg.withKey hb fun n _ => by cases n <;> rfl

theorem Engine.Inv.prepare {g : Engine} (hg : g.Inv) (hb : g.busy = false) (clr keyclr : Bool) :
    (g.prepare clr keyclr).Inv := by
  cases clr <;> cases keyclr
  · exact hg
  · exact hg.clearKey hb
  · exact hg.clearFlags
  · exact hg.clearFlags.clearKey hb

/-- The sum an operation starts from is that of no round done (R24). -/
theorem Mode.initSum_eq_scheduledSum (m : Mode) : m.initSum = scheduledSum m 0 := by
  cases m <;> decide

/-- An accepted start stands at round 0 with the sum its mode starts from, under a whole key and with DONE cleared. -/
theorem Engine.Inv.start {g : Engine} (hg : g.Inv) (m : Mode) (hk : g.keyWr = 0b1111#4) (hd : g.done = false) :
    (g.start m).Inv where
  rcRange := by simp
  busyRunning := by simp
  idleWhole := by simp
  sumScheduled := Mode.initSum_eq_scheduledSum m
  busyKey := fun _ => hk
  doneIdle := by simp [hd]
  unwrittenZero := hg.unwrittenZero

theorem Engine.Inv.tryStart {g : Engine} (hg : g.Inv) (m : Mode) : (g.tryStart m).Inv := by
  by_cases hk : g.keyWr = 0b1111#4
  · rw [Engine.tryStart_accepted m hk]
    exact hg.clearDone.start m hk rfl
  · rw [Engine.tryStart_refused m hk]
    exact hg.clearDone.raise .noKey

/-- What any transaction does to an idle engine keeps the invariant. -/
theorem Engine.Inv.effect {g : Engine} (hg : g.Inv) (hb : g.busy = false) (i : Instr) : (Instr.effect i g).Inv := by
  cases i with
  | rdKey _ | rdData _ | rdCtrl | rdStatus | wrStatus _ => exact hg
  | wrKey n d => exact hg.writeKey hb n d
  | wrData n d => exact hg.writeData n d
  | wrCtrlNop clr keyclr => exact hg.prepare hb clr keyclr
  | wrCtrlEnc clr keyclr => exact (hg.prepare hb clr keyclr).tryStart .enc
  | wrCtrlDec clr keyclr => exact (hg.prepare hb clr keyclr).tryStart .dec
  | wrCtrlIllegal _ => exact hg.raise .cmd

/-! ### the round -/

/-- While busy a round adds 1 to RC without wrapping. -/
theorem Engine.Inv.round_rc_toNat {g : Engine} (hg : g.Inv) (hb : g.busy = true) :
    g.round.rc.toNat = g.rc.toNat + 1 := by
  have hrc := hg.busyRunning hb
  rw [Engine.round_rc]
  bv_omega

/-- After a round BUSY says that it was not the last. -/
theorem Engine.Inv.round_busy_iff {g : Engine} (hg : g.Inv) (hb : g.busy = true) :
    g.round.busy = true ↔ g.rc.toNat < 31 := by
  have hrc := hg.busyRunning hb
  rw [Engine.round_busy_of_busy hb, Bool.not_eq_true', Bool.eq_false_iff, Ne, Engine.completes_iff]
  bv_omega

/-- A round of a busy engine counts RC and SUM on by one place, and the last one leaves the engine idle at RC = 32. -/
theorem Engine.Inv.round {g : Engine} (hg : g.Inv) (hb : g.busy = true) : g.round.Inv where
  rcRange := by
    have := hg.busyRunning hb
    rw [hg.round_rc_toNat hb]; omega
  busyRunning := by
    rw [hg.round_busy_iff hb, hg.round_rc_toNat hb]; omega
  idleWhole := fun hidle => .inl (by
    have hlast : g.rc = 31#6 := by
      rw [Engine.round_busy_of_busy hb] at hidle
      exact g.completes_iff.1 (by simpa using hidle)
    rw [Engine.round_rc, hlast]; rfl)
  sumScheduled := by
    rw [Engine.round_mode, hg.round_rc_toNat hb]
    exact Engine.round_sum_scheduled (hg.busyRunning hb) hg.sumScheduled
  busyKey := fun _ => by rw [Engine.round_keyWr]; exact hg.busyKey hb
  doneIdle := fun hdone => by
    have hnot : g.done = false := Bool.eq_false_iff.2 fun h => by simp [hg.doneIdle h] at hb
    rw [Engine.round_done_eq_or, hnot, Bool.false_or] at hdone
    rw [Engine.round_busy_of_busy hb, hdone]; rfl
  unwrittenZero := by rw [Engine.round_keyWr, Engine.round_key]; exact hg.unwrittenZero

/-! ### the cycle -/

/-- While idle the edge commits what the host's part left: nothing, or a transaction's effect. -/
theorem BusCycle.nextEngine_idle {c : BusCycle} {g : Engine} (hr : c.rstN = true) (hb : g.busy = false) :
    c.nextEngine g = if c.sel then Instr.effect (decode c.word) g else g := by
  rw [BusCycle.nextEngine_run _ hr, Engine.commitRound_idle _ hb, BusCycle.hostEngine, Instr.hostEngine_of_idle _ hb]

theorem Engine.Inv.nextEngine {g : Engine} (hg : g.Inv) (c : BusCycle) : (c.nextEngine g).Inv := by
  cases hr : c.rstN with
  | false =>
    rw [BusCycle.nextEngine_reset _ hr]
    exact Engine.inv_reset
  | true =>
    cases hb : g.busy with
    | true =>
      obtain ⟨e, hnext⟩ := BusCycle.nextEngine_busy hr hb
      rw [hnext]
      exact (hg.round hb).withErrBusy e
    | false =>
      rw [BusCycle.nextEngine_idle hr hb]
      split
      · exact hg.effect hb _
      · exact hg

/-- Settles O48: a cycle is a reset, a round with ERR_BUSY, or a transaction on an idle engine, and each keeps the
invariant. -/
theorem everyStepKeepsInvariant : Obligations.EveryStepKeepsInvariant := by
  unfold Obligations.EveryStepKeepsInvariant State.Inv
  intro s t hinv hstep
  rw [(step_next_iff s t).1 hstep]
  exact hinv.nextEngine s.ports

end Sys2Proof.Machine

/-! PROOFS. Decrypt and encrypt as mutual inverses, what the host and the engine write at one edge, and who writes the key
and MODE; the statements on `42_decrypt.md` R91 and R92, `20_memory.md` R43 and `10_state.md` R16, R25 and R28. -/

namespace Sys2Proof.Machine

open Sys2Proof

/-! ### decrypt inverts encrypt (`42_decrypt.md` R91, R92) -/

/-- `D_s(E_s(b)) = b`: V1 is recovered from the new V0, then V0 from the recovered V1. -/
theorem decUpdate_encUpdate (k : Key) (s : Word) (b : Block) : decUpdate k s (encUpdate k s b) = b := by
  simp [decUpdate, encUpdate]

/-- `E_s(D_s(b)) = b`: V0 is recovered from the new V1, then V1 from the recovered V0. -/
theorem encUpdate_decUpdate (k : Key) (s : Word) (b : Block) : encUpdate k s (decUpdate k s b) = b := by
  simp [decUpdate, encUpdate]

/-- Settles O39: each update undoes the other half by half. -/
theorem roundsAreMutuallyInverse : Obligations.RoundsAreMutuallyInverse := by
  unfold Obligations.RoundsAreMutuallyInverse
  exact fun k s b => ⟨decUpdate_encUpdate k s b, encUpdate_decUpdate k s b⟩

/-- `n` decrypt rounds from where `n` encrypt rounds left the sum undo them, the last one first. -/
theorem teaDecLoop_teaEncLoop (k : Key) (n : Nat) (s : Word) (b : Block) :
    teaDecLoop k n (s + BitVec.ofNat 32 n * Config.delta) (teaEncLoop k n s b) = b := by
  induction n with
  | zero => rfl
  | succ n ih =>
    have hsum : s + BitVec.ofNat 32 (n + 1) * Config.delta - Config.delta = s + BitVec.ofNat 32 n * Config.delta := by
      rw [ofNat_succ_mul, ← BitVec.add_assoc, BitVec.add_sub_cancel]
    rw [teaEncLoop_last, teaDecLoop, decUpdate_encUpdate, hsum, ih]

/-- `n` encrypt rounds towards the sum that `n` decrypt rounds started from undo them, the last one first. -/
theorem teaEncLoop_teaDecLoop (k : Key) (n : Nat) (s : Word) (b : Block) :
    teaEncLoop k n s (teaDecLoop k n (s + BitVec.ofNat 32 n * Config.delta) b) = b := by
  induction n generalizing s with
  | zero => rfl
  | succ n ih =>
    have hstart : s + BitVec.ofNat 32 (n + 1) * Config.delta
        = s + Config.delta + BitVec.ofNat 32 n * Config.delta := by
      rw [ofNat_succ_mul]; ring
    have hlast : s + Config.delta + BitVec.ofNat 32 n * Config.delta - BitVec.ofNat 32 n * Config.delta
        = s + Config.delta := BitVec.add_sub_cancel _ _
    rw [hstart, teaDecLoop_last, hlast, teaEncLoop, encUpdate_decUpdate, ih]

/-- SUM_DEC_INIT is the sum that 32 encrypt rounds end with (`42_decrypt.md` R86). -/
theorem sumDecInit_eq : Config.sumDecInit = 0#32 + BitVec.ofNat 32 Config.rounds * Config.delta := by
  decide

theorem teaDec_teaEnc (k : Key) (b : Block) : teaDec k (teaEnc k b) = b := by
  rw [teaDec, teaEnc, sumDecInit_eq, teaDecLoop_teaEncLoop]

theorem teaEnc_teaDec (k : Key) (b : Block) : teaEnc k (teaDec k b) = b := by
  rw [teaDec, teaEnc, sumDecInit_eq, teaEncLoop_teaDecLoop]

/-- Settles O40: by induction on the rounds, the two loops running over the same sums in opposite order. -/
theorem decryptInvertsEncrypt : Obligations.DecryptInvertsEncrypt := by
  unfold Obligations.DecryptInvertsEncrypt
  exact fun k b => ⟨teaDec_teaEnc k b, teaEnc_teaDec k b⟩

/-! ### the host and the engine at one edge (`20_memory.md` R43) -/

/-- While busy a transaction changes ERR_BUSY at most. -/
theorem Instr.hostEngine_busy_withErrBusy (i : Instr) {g : Engine} (hb : g.busy = true) :
    Instr.hostEngine i g = { g with errBusy := (Instr.hostEngine i g).errBusy } := by
  rcases Instr.hostEngine_busy_cases i hb with h | ⟨-, h⟩
  · rw [h]
  · rw [h]; rfl

/-- The edge over a host part that wrote ERR_BUSY alone is the engine's own step after it. -/
theorem Engine.commitRound_withErrBusy_eq_engineStep {g : Engine} (hb : g.busy = true) (e : Bool) :
    g.commitRound { g with errBusy := e } = Engine.engineStep { g with errBusy := e } := by
  rw [Engine.commitRound_withErrBusy g e hb, ← Engine.round_withErrBusy]
  exact (Engine.engineStep_busy (g := { g with errBusy := e }) hb).symm

/-- Settles O44: a busy engine lets the transaction write ERR_BUSY alone, which no round reads or writes. -/
theorem transactionAndRoundAreDisjoint : Obligations.TransactionAndRoundAreDisjoint := by
  unfold Obligations.TransactionAndRoundAreDisjoint
  intro s i h t hcarries hexec hstep
  obtain rfl := Host.Outcome.next.inj ((step_of_carries hcarries).symm.trans hstep)
  obtain rfl := (exec_next_iff _ _ _).1 hexec
  refine ⟨fun hb => ?busy, fun hb => Engine.commitRound_idle _ hb⟩
  case busy =>
    have hhost := Instr.hostEngine_busy_withErrBusy i hb
    refine ⟨?_, hhost⟩
    show s.eng.commitRound (Instr.hostEngine i s.eng) = (Instr.hostEngine i s.eng).engineStep
    rw [hhost, Engine.commitRound_withErrBusy_eq_engineStep hb]

/-! ### the registers no round writes -/

/-- Over a cycle without reset, KEY, KEY_WR and MODE change only by the effect of a transaction on an idle engine: the gate
and the round do not write them. -/
theorem step_keyStore_mode_cases {s t : State} (hstep : step s = .next t) (hr : s.ports.rstN = true) :
    t.eng.key = s.eng.key ∧ t.eng.keyWr = s.eng.keyWr ∧ t.eng.mode = s.eng.mode ∨
    s.eng.busy = false ∧ ∃ i : Instr, s.carries i ∧ t.eng = Instr.effect i s.eng := by
  rw [(step_next_iff s t).1 hstep]
  cases hb : s.eng.busy with
  | true =>
    obtain ⟨e, hnext⟩ := BusCycle.nextEngine_busy hr hb
    exact .inl (by simp [hnext])
  | false =>
    rw [BusCycle.nextEngine_idle hr hb]
    cases hsel : s.ports.sel with
    | false => exact .inl ⟨rfl, rfl, rfl⟩
    | true => exact .inr ⟨rfl, _, ⟨hr, hsel, rfl⟩, rfl⟩

/-! ### who writes the key (`10_state.md` R16, R28) -/

/-- The key and KEY_WR after a transaction's effect: WR_KEYn writes one word and its mark, KEYCLR zeroes all, nothing else
writes them. -/
theorem Instr.effect_key_cases (i : Instr) (g : Engine) :
    (∃ n d, i = .wrKey n d) ∨
    i.hasKeyclr = true ∧ (Instr.effect i g).key = ⟨0#32, 0#32, 0#32, 0#32⟩ ∧ (Instr.effect i g).keyWr = 0#4 ∨
    (Instr.effect i g).key = g.key ∧ (Instr.effect i g).keyWr = g.keyWr := by
  cases i with
  | wrKey n d => exact .inl ⟨n, d, rfl⟩
  | wrCtrlNop clr keyclr | wrCtrlEnc clr keyclr | wrCtrlDec clr keyclr =>
    right
    cases keyclr <;> simp [Instr.effect, Instr.hasKeyclr]
  | _ => exact .inr (.inr ⟨rfl, rfl⟩)

/-- Settles O50: the effect on an idle engine, case by case; WR_KEYm leaves every other word and mark. -/
theorem keyChangesOnlyByHostWhileIdle : Obligations.KeyChangesOnlyByHostWhileIdle := by
  unfold Obligations.KeyChangesOnlyByHostWhileIdle
  intro s t n hstep hr
  rcases step_keyStore_mode_cases hstep hr with ⟨hkey, hkeyWr, -⟩ | ⟨hb, i, hcarries, heng⟩
  · exact .inl ⟨by rw [hkey], by rw [hkeyWr]⟩
  · rw [heng]
    rcases Instr.effect_key_cases i s.eng with ⟨m, d, rfl⟩ | ⟨hkeyclr, hkey, hkeyWr⟩ | ⟨hkey, hkeyWr⟩
    · rw [Instr.effect, Engine.writeKey_key, Engine.writeKey_keyWr, Key.get_set, keyWr_mark_getLsbD]
      by_cases hnm : n = m
      · subst hnm
        exact .inr ⟨hb, .inl ⟨d, hcarries, if_pos rfl, by simp⟩⟩
      · exact .inl ⟨if_neg hnm, by simp [hnm]⟩
    · refine .inr ⟨hb, .inr ⟨i, hcarries, hkeyclr, ?_, by rw [hkeyWr, BitVec.getLsbD_zero]⟩⟩
      rw [hkey]
      cases n <;> rfl
    · exact .inl ⟨by rw [hkey], by rw [hkeyWr]⟩

/-! ### who writes MODE (`10_state.md` R25) -/

/-- A start of mode `m` is tried after the word's CLR and KEYCLR: MODE is written if the key is whole then, and BUSY with
it. -/
theorem Engine.tryStart_prepare_mode_cases (m : Mode) (clr keyclr : Bool) (g : Engine) :
    ((g.prepare clr keyclr).tryStart m).mode = g.mode ∨
    keyclr = false ∧ g.keyWr = 0b1111#4 ∧ ((g.prepare clr keyclr).tryStart m).busy = true ∧
      ((g.prepare clr keyclr).tryStart m).mode = m := by
  by_cases hk : (g.prepare clr keyclr).keyWr = 0b1111#4
  · right
    have hwhole := (Engine.prepare_keyWr_whole_iff clr keyclr g).1 hk
    rw [Engine.keyValid_eq, Bool.and_eq_true, beq_iff_eq, Bool.not_eq_true'] at hwhole
    exact ⟨hwhole.2, hwhole.1, by rw [Engine.tryStart_busy, if_pos hk], by rw [Engine.tryStart_mode, if_pos hk]⟩
  · left
    rw [Engine.tryStart_mode, if_neg hk, Engine.prepare_mode]

/-- A transaction's effect writes MODE only as an accepted start. -/
theorem Instr.effect_mode_cases (i : Instr) (g : Engine) :
    (Instr.effect i g).mode = g.mode ∨
    g.keyWr = 0b1111#4 ∧ (Instr.effect i g).busy = true ∧ ∃ clr, i = (Instr.effect i g).mode.startWord clr := by
  cases i with
  | wrCtrlNop clr keyclr => exact .inl (Engine.prepare_mode clr keyclr g)
  | wrCtrlEnc clr keyclr =>
    refine (Engine.tryStart_prepare_mode_cases .enc clr keyclr g).imp_right ?_
    rintro ⟨rfl, hk, hbusy, hmode⟩
    exact ⟨hk, hbusy, clr, by rw [Instr.effect, hmode]; rfl⟩
  | wrCtrlDec clr keyclr =>
    refine (Engine.tryStart_prepare_mode_cases .dec clr keyclr g).imp_right ?_
    rintro ⟨rfl, hk, hbusy, hmode⟩
    exact ⟨hk, hbusy, clr, by rw [Instr.effect, hmode]; rfl⟩
  | _ => exact .inl rfl

/-- Settles O51: of all effects on an idle engine only an accepted start writes MODE. -/
theorem modeChangesOnlyByStart : Obligations.ModeChangesOnlyByStart := by
  unfold Obligations.ModeChangesOnlyByStart
  intro s t hstep hr
  rcases step_keyStore_mode_cases hstep hr with ⟨-, -, hmode⟩ | ⟨hb, i, hcarries, heng⟩
  · exact .inl hmode
  · rw [heng]
    refine (Instr.effect_mode_cases i s.eng).imp_right ?_
    rintro ⟨hk, hbusy, clr, hi⟩
    exact ⟨hb, hk, hbusy, clr, hi ▸ hcarries⟩

end Sys2Proof.Machine

/-! PROOFS. One operation from its start to its completion, and what follows of results; the statements on `41_encrypt.md`
R79 to R81, `42_decrypt.md` R86 and R88 to R90, `70_reset_and_hazards.md` R128 and `40_register_access.md` R73. -/

namespace Sys2Proof.Machine

open Sys2Proof

/-! ### the engine in the course of an operation -/

/-- The engine `g` has done `r` of the 32 rounds of an operation of mode `m` under the whole key `k` on the block `b`. -/
structure Engine.Progress (m : Mode) (k : Key) (b : Block) (r : Nat) (g : Engine) : Prop where
  busy : g.busy = decide (r < 32)
  done : g.done = decide (r = 32)
  rc : g.rc = BitVec.ofNat 6 r
  mode : g.mode = m
  sum : g.sum = scheduledSum m r
  data : g.data = m.afterRounds k r b
  key : g.key = k
  keyWr : g.keyWr = 0b1111#4

/-- An accepted start stands before the first round. -/
theorem Engine.Progress.of_start {i : Instr} {m : Mode} {clr : Bool} {g : Engine} (hi : i = m.startWord clr)
    (hk : g.keyWr = 0b1111#4) : Engine.Progress m g.key g.data 0 (Instr.effect i g) := by
  have heff : Instr.effect i g = (g.prepare clr false).tryStart m := by
    subst hi
    cases m <;> rfl
  rw [heff, Engine.tryStart_prepare_accepted m clr hk]
  exact ⟨rfl, rfl, rfl, rfl, Mode.initSum_eq_scheduledSum m, by cases m <;> rfl, rfl, hk⟩

/-- Encrypt round `r + 1` works with the sum `(r + 1) * DELTA`. -/
theorem Mode.afterRounds_enc_succ (k : Key) (r : Nat) (b : Block) :
    Mode.enc.afterRounds k (r + 1) b =
      encUpdate k (scheduledSum .enc r + Config.delta) (Mode.enc.afterRounds k r b) := by
  rw [Mode.afterRounds, teaEncLoop_last, BitVec.zero_add, ofNat_succ_mul]
  rfl

/-- Decrypt round `r + 1` works with the sum `(32 - r) * DELTA`. -/
theorem Mode.afterRounds_dec_succ (k : Key) {r : Nat} (b : Block) (hr : r ≤ 32) :
    Mode.dec.afterRounds k (r + 1) b = decUpdate k (scheduledSum .dec r) (Mode.dec.afterRounds k r b) := by
  have hsum : Config.sumDecInit - BitVec.ofNat 32 r * Config.delta = scheduledSum .dec r := by
    have hsplit : Config.sumDecInit = scheduledSum .dec r + BitVec.ofNat 32 r * Config.delta := by
      rw [scheduledSum, ← BitVec.add_mul, ← BitVec.ofNat_add, Nat.sub_add_cancel hr]
      decide
    rw [hsplit, BitVec.add_sub_cancel]
  rw [Mode.afterRounds, teaDecLoop_last, hsum]
  rfl

/-- The round of an operation carries the block to that of one round more. -/
theorem Engine.round_data_afterRounds {m : Mode} {k : Key} {b : Block} {r : Nat} {g : Engine} (hr : r ≤ 32)
    (h : g.Progress m k b r) : g.round.data = m.afterRounds k (r + 1) b := by
  cases m with
  | enc => rw [Engine.round_enc_data h.mode, h.key, h.sum, h.data, Mode.afterRounds_enc_succ]
  | dec => rw [Engine.round_dec_data h.mode, h.key, h.sum, h.data, Mode.afterRounds_dec_succ k b hr]

/-- In the course of an operation the completion check finds the 32nd round. -/
theorem Engine.Progress.completes {m : Mode} {k : Key} {b : Block} {r : Nat} {g : Engine} (h : g.Progress m k b r)
    (hr : r < 32) : g.completes = decide (r + 1 = 32) := by
  rw [Bool.eq_iff_iff, Engine.completes_iff, h.rc, decide_eq_true_iff]
  bv_omega

/-- A round of an operation is one place of its course. -/
theorem Engine.Progress.round {m : Mode} {k : Key} {b : Block} {r : Nat} {g : Engine} (h : g.Progress m k b r)
    (hr : r < 32) : g.round.Progress m k b (r + 1) where
  busy := by
    have hbusy : g.busy = true := by simpa [hr] using h.busy
    rw [Engine.round_busy_of_busy hbusy, h.completes hr, ← decide_not, decide_eq_decide]
    omega
  done := by
    rw [Engine.round_done_eq_or, h.completes hr, h.done, decide_eq_false (by omega), Bool.false_or]
  rc := by rw [Engine.round_rc, h.rc, BitVec.ofNat_add]
  mode := by rw [Engine.round_mode, h.mode]
  sum := by
    have hsum : g.sum = scheduledSum g.mode r := by rw [h.sum, h.mode]
    rw [Engine.round_sum_scheduled hr hsum, h.mode]
  data := Engine.round_data_afterRounds (by omega) h
  key := by rw [Engine.round_key, h.key]
  keyWr := by rw [Engine.round_keyWr, h.keyWr]

/-- The course of an operation does not speak of ERR_BUSY. -/
theorem Engine.Progress.withErrBusy {m : Mode} {k : Key} {b : Block} {r : Nat} {g : Engine} (h : g.Progress m k b r)
    (e : Bool) : Engine.Progress m k b r { g with errBusy := e } :=
  ⟨h.busy, h.done, h.rc, h.mode, h.sum, h.data, h.key, h.keyWr⟩

/-! ### cycle by cycle -/

/-- The cycle of the start ends before the first round. -/
theorem State.after_one_progress {m : Mode} {clr : Bool} {s : State} (hb : s.eng.busy = false)
    (hk : s.eng.keyWr = 0b1111#4) (hc : s.carries (m.startWord clr)) :
    (State.after 1 s).eng.Progress m s.eng.key s.eng.data 0 := by
  obtain ⟨hr, hsel, hdec⟩ := hc
  show (s.ports.nextEngine s.eng).Progress m s.eng.key s.eng.data 0
  rw [BusCycle.nextEngine_idle hr hb, if_pos hsel]
  exact Engine.Progress.of_start hdec hk

/-- `r` more cycles without reset are `r` rounds, whatever the bus carries. -/
theorem State.after_progress {m : Mode} {clr : Bool} {s : State} {r : Nat} (hr : r ≤ 32) (hb : s.eng.busy = false)
    (hk : s.eng.keyWr = 0b1111#4) (hc : s.carries (m.startWord clr)) (hn : noReset (r + 1) s.bus) :
    (State.after (r + 1) s).eng.Progress m s.eng.key s.eng.data r := by
  induction r with
  | zero => exact State.after_one_progress hb hk hc
  | succ r ih =>
    have hprev := ih (by omega) fun c hmem => hn c (List.take_subset_take_left _ (by omega) hmem)
    have hbusy : (State.after (r + 1) s).eng.busy = true := by rw [hprev.busy, decide_eq_true]; omega
    have hrst : (State.after (r + 1) s).ports.rstN = true := by
      rw [State.after_ports]
      exact noReset_getD hn (by omega)
    obtain ⟨e, hnext⟩ := BusCycle.nextEngine_busy hrst hbusy
    rw [State.after_succ]
    show Engine.Progress _ _ _ _ (BusCycle.nextEngine _ _)
    rw [hnext]
    exact (hprev.round (by omega)).withErrBusy e

/-- A whole operation takes its start's cycle and 32 more. -/
theorem State.after_operation {m : Mode} {clr : Bool} {s : State} (hb : s.eng.busy = false)
    (hk : s.eng.keyWr = 0b1111#4) (hc : s.carries (m.startWord clr)) (hn : noReset 33 s.bus) :
    (State.after 33 s).eng.Progress m s.eng.key s.eng.data 32 :=
  State.after_progress (Nat.le_refl 32) hb hk hc hn

/-! ### the statements -/

/-- Settles O52: the course of the operation after its first `r` rounds. -/
theorem operationTiming : Obligations.OperationTiming := by
  unfold Obligations.OperationTiming
  intro m clr r s hr hb hk hc hn
  have h := State.after_progress (by omega) hb hk hc hn
  exact ⟨_, run_eq (r + 1) s, by rw [h.busy, decide_eq_true]; omega, by rw [h.done, decide_eq_false]; omega, h.rc,
    h.mode, h.sum, h.data⟩

/-- Settles O53: `TEA_Enc` is the block after 32 encrypt rounds. -/
theorem encryptOperationComputesTeaEnc : Obligations.EncryptOperationComputesTeaEnc := by
  unfold Obligations.EncryptOperationComputesTeaEnc
  intro clr s hb hk hc hn
  have h := State.after_operation (m := .enc) hb hk hc hn
  have hsum : scheduledSum .enc 32 = 0xC6EF3720#32 := by decide
  exact ⟨_, run_eq 33 s, h.data, h.busy, h.done, h.rc, h.mode, h.sum.trans hsum, h.key, h.keyWr.trans hk.symm⟩

/-- Settles O54: `TEA_Dec` is the block after 32 decrypt rounds. -/
theorem decryptOperationComputesTeaDec : Obligations.DecryptOperationComputesTeaDec := by
  unfold Obligations.DecryptOperationComputesTeaDec
  intro clr s hb hk hc hn
  have h := State.after_operation (m := .dec) hb hk hc hn
  have hsum : scheduledSum .dec 32 = 0x00000000#32 := by decide
  exact ⟨_, run_eq 33 s, h.data, h.busy, h.done, h.rc, h.mode, h.sum.trans hsum, h.key, h.keyWr.trans hk.symm⟩

/-- What is left of a run without reset holds no reset. -/
theorem noReset_drop {m n : Nat} {bus : List BusCycle} (h : noReset (m + n) bus) : noReset n (bus.drop m) := by
  intro c hc
  rw [List.take_drop] at hc
  exact h c (List.mem_of_mem_drop hc)

/-- Settles O55: the second operation starts from the first one's result, which `TEA_Dec` inverts. -/
theorem decAfterEncRestoresBlockInPlace : Obligations.DecAfterEncRestoresBlockInPlace := by
  unfold Obligations.DecAfterEncRestoresBlockInPlace
  intro clr clr' s hb hk hc hn hsel hdec
  have henc := State.after_operation (m := .enc) hb hk hc fun c hmem =>
    hn c (List.take_subset_take_left _ (by omega) hmem)
  have hcarries : (State.after 33 s).carries (Mode.dec.startWord clr') := by
    unfold State.carries
    rw [State.after_ports]
    exact ⟨noReset_getD hn (by omega), hsel, hdec⟩
  have hrest : noReset 33 (State.after 33 s).bus := by
    rw [State.after_bus]
    exact noReset_drop (m := 33) hn
  have h := State.after_operation henc.busy henc.keyWr hcarries hrest
  rw [← State.after_add 33 33 s, henc.key, henc.data] at h
  exact ⟨_, run_eq 66 s, h.data.trans (teaDec_teaEnc _ _), h.key, h.busy, h.done, h.mode⟩

/-- Settles O56: the result is a function of the mode, the key and the block. -/
theorem resultDependsOnKeyAndBlockOnly : Obligations.ResultDependsOnKeyAndBlockOnly := by
  unfold Obligations.ResultDependsOnKeyAndBlockOnly
  intro m clr clr' s s' hkey hdata hb hb' hk hk' hc hc' hn hn'
  have h := State.after_operation hb hk hc hn
  have h' := State.after_operation hb' hk' hc' hn'
  rw [← hkey, ← hdata] at h'
  exact ⟨_, _, run_eq 33 s, run_eq 33 s', h.data.trans h'.data.symm, h.busy, h'.busy⟩

end Sys2Proof.Machine

/-! PROOFS. Writing the key words in any order, and what two machines that differ in the key or in SUM alone answer; the
statements on `40_register_access.md` R63 and R71 and `60_exceptions.md` R114. -/

namespace Sys2Proof.Machine

open Sys2Proof

/-! ### a sequence of WR_KEYn (`40_register_access.md` R71) -/

/-- The words of the key `k` written to the registers `ns`, one after the other. -/
def Engine.writeKeys (k : Key) (ns : List KeyReg) (g : Engine) : Engine :=
  ns.foldl (fun g n => Engine.writeKey n (k.get n) g) g

@[simp] theorem Engine.writeKeys_nil (k : Key) (g : Engine) : g.writeKeys k [] = g := rfl
@[simp] theorem Engine.writeKeys_cons (k : Key) (n : KeyReg) (ns : List KeyReg) (g : Engine) :
    g.writeKeys k (n :: ns) = (Engine.writeKey n (k.get n) g).writeKeys k ns := rfl

/-- Key words are written to no register but KEY and KEY_WR. -/
theorem Engine.writeKeys_frame (k : Key) (ns : List KeyReg) (g : Engine) :
    g.writeKeys k ns = { g with key := (g.writeKeys k ns).key, keyWr := (g.writeKeys k ns).keyWr } := by
  induction ns generalizing g with
  | nil => rfl
  | cons n ns ih =>
    rw [Engine.writeKeys_cons, ih]
    rfl

/-- A register named in the sequence holds its word of `k` at the end, any other keeps its own. -/
theorem Engine.writeKeys_key_get (k : Key) (ns : List KeyReg) (g : Engine) (m : KeyReg) :
    (g.writeKeys k ns).key.get m = if m ∈ ns then k.get m else g.key.get m := by
  induction ns generalizing g with
  | nil => simp
  | cons n ns ih =>
    rw [Engine.writeKeys_cons, ih, Engine.writeKey_key, Key.get_set]
    by_cases hmem : m ∈ ns
    · simp [hmem]
    · by_cases hmn : m = n
      · subst hmn; simp
      · simp [hmem, hmn]

/-- A register named in the sequence is marked at the end, any other keeps its mark. -/
theorem Engine.writeKeys_keyWr_getLsbD (k : Key) (ns : List KeyReg) (g : Engine) (m : KeyReg) :
    (g.writeKeys k ns).keyWr.getLsbD m.index = (decide (m ∈ ns) || g.keyWr.getLsbD m.index) := by
  induction ns generalizing g with
  | nil => simp
  | cons n ns ih =>
    rw [Engine.writeKeys_cons, ih, Engine.writeKey_keyWr, keyWr_mark_getLsbD]
    by_cases hmn : m = n <;> simp [hmn]

/-- A key is known from its four words. -/
theorem Key.ext_get {k l : Key} (h : ∀ n, k.get n = l.get n) : k = l := by
  have h0 : k.k0 = l.k0 := h .k0
  have h1 : k.k1 = l.k1 := h .k1
  have h2 : k.k2 = l.k2 := h .k2
  have h3 : k.k3 = l.k3 := h .k3
  cases k; cases l
  simp_all only

/-- With all four marks KEY_WR is 0b1111. -/
theorem keyWr_whole_of_marks {w : BitVec 4} (h : ∀ n : KeyReg, w.getLsbD n.index = true) : w = 0b1111#4 := by
  have hmarks : w.getLsbD 0 = true ∧ w.getLsbD 1 = true ∧ w.getLsbD 2 = true ∧ w.getLsbD 3 = true :=
    ⟨h .k0, h .k1, h .k2, h .k3⟩
  clear h
  revert w
  decide

/-- A sequence that names every register writes the whole key, whatever its order and whatever stood there. -/
theorem Engine.writeKeys_all (k : Key) {ns : List KeyReg} (h : ∀ n, n ∈ ns) (g : Engine) :
    g.writeKeys k ns = { g with key := k, keyWr := 0b1111#4 } := by
  have hkey : (g.writeKeys k ns).key = k := by
    apply Key.ext_get
    intro n
    rw [Engine.writeKeys_key_get, if_pos (h n)]
  have hkeyWr : (g.writeKeys k ns).keyWr = 0b1111#4 := by
    apply keyWr_whole_of_marks
    intro n
    rw [Engine.writeKeys_keyWr_getLsbD, decide_eq_true (h n), Bool.true_or]
  rw [Engine.writeKeys_frame, hkey, hkeyWr]

/-- The bus cycles that write the words of `k` to the registers `ns`. -/
def keyCycles (k : Key) (ns : List KeyReg) : List BusCycle :=
  ns.map (fun n => BusCycle.transact (encode (.wrKey n (k.get n))))

/-- A cycle that carries WR_KEYn to an idle engine writes that word and nothing else. -/
theorem BusCycle.nextEngine_wrKey (n : KeyReg) (d : Word) {g : Engine} (hb : g.busy = false) :
    (BusCycle.transact (encode (.wrKey n d))).nextEngine g = Engine.writeKey n d g := by
  rw [BusCycle.nextEngine_idle rfl hb, BusCycle.word_transact, encode, decode_wrKey_word]
  rfl

/-- A sequence of such cycles, from an idle engine, which stays idle. -/
theorem State.after_keyCycles (k : Key) (ns : List KeyReg) {rest : List BusCycle} {s : State}
    (hb : s.eng.busy = false) (hbus : s.bus = keyCycles k ns ++ rest) :
    (State.after ns.length s).eng = s.eng.writeKeys k ns ∧ (State.after ns.length s).bus = rest := by
  induction ns generalizing s with
  | nil => exact ⟨rfl, hbus⟩
  | cons n ns ih =>
    have hports : s.ports = BusCycle.transact (encode (.wrKey n (k.get n))) := by rw [State.ports, hbus]; rfl
    have htail : s.bus.tail = keyCycles k ns ++ rest := by rw [hbus]; rfl
    have hnext := BusCycle.nextEngine_wrKey n (k.get n) hb
    rw [List.length_cons, State.after, hports, hnext, Engine.writeKeys_cons]
    exact ih hb htail

/-- Settles O57: by induction on the sequence, then word by word and mark by mark. -/
theorem setKeyInAnyOrder : Obligations.SetKeyInAnyOrder := by
  unfold Obligations.SetKeyInAnyOrder
  intro k ns rest s hall hb hbus
  obtain ⟨heng, hrest⟩ := State.after_keyCycles k ns hb hbus
  rw [Engine.writeKeys_all k hall] at heng
  exact ⟨_, run_eq ns.length s, heng, by rw [heng, Engine.keyValid_eq]; rfl, hrest⟩

/-! ### the key is not observable while idle (R63) -/

/-- No transaction answers a key word. -/
theorem Instr.answer_withKey (i : Instr) (g : Engine) (k : Key) :
    Instr.answer i { g with key := k } = Instr.answer i g := by
  cases i <;> rfl

/-- No effect copies a key word into another register, and none looks at the key but at KEY_WR. -/
theorem Instr.effect_withKey (i : Instr) (g : Engine) (k : Key) :
    ∃ l, Instr.effect i { g with key := k } = { Instr.effect i g with key := l } := by
  refine ⟨(Instr.effect i { g with key := k }).key, ?_⟩
  cases i with
  | wrCtrlNop clr keyclr | wrCtrlEnc clr keyclr | wrCtrlDec clr keyclr =>
    apply Engine.ext_registers <;> simp [Instr.effect]
  | _ => rfl

theorem BusCycle.answer_withKey (c : BusCycle) (g : Engine) (k : Key) :
    c.answer { g with key := k } = c.answer g := by
  simp only [BusCycle.answer, Instr.answer_withKey]

/-- A cycle of an idle engine keeps a difference in the key to the key. -/
theorem BusCycle.nextEngine_withKey (c : BusCycle) {g : Engine} (hb : g.busy = false) (k : Key) :
    ∃ l, c.nextEngine { g with key := k } = { c.nextEngine g with key := l } := by
  cases hr : c.rstN with
  | false =>
    rw [BusCycle.nextEngine_reset _ hr, BusCycle.nextEngine_reset _ hr]
    exact ⟨Engine.reset.key, rfl⟩
  | true =>
    rw [BusCycle.nextEngine_idle hr hb, BusCycle.nextEngine_idle (g := { g with key := k }) hr hb]
    split
    · exact Instr.effect_withKey _ g k
    · exact ⟨k, rfl⟩

/-- Settles O58: neither the answer nor a register but the key depends on the key. -/
theorem keyIsNotObservableWhileIdle : Obligations.KeyIsNotObservableWhileIdle := by
  unfold Obligations.KeyIsNotObservableWhileIdle
  intro s s' hsame hbus hb
  have hports : s'.ports = s.ports := by rw [State.ports, State.ports, hbus]
  have heng : s'.eng = { s.eng with key := s'.eng.key } := hsame.symm
  obtain ⟨l, hnext⟩ := BusCycle.nextEngine_withKey s.ports hb s'.eng.key
  have hanswer := BusCycle.answer_withKey s.ports s.eng s'.eng.key
  rw [← heng] at hnext hanswer
  refine ⟨_, _, step_eq s, step_eq s', ?_⟩
  rw [hports, hnext, hanswer, hbus]
  exact ⟨fun _ => rfl, rfl, rfl, rfl⟩

/-! ### SUM is not observable (`60_exceptions.md` R114) -/

/-- No transaction answers SUM: STATUS has no field of it. -/
theorem Instr.answer_withSum (i : Instr) (g : Engine) (x : Word) :
    Instr.answer i { g with sum := x } = Instr.answer i g := by
  cases i <;> rfl

/-- No effect reads SUM. -/
theorem Instr.effect_withSum (i : Instr) (g : Engine) (x : Word) :
    ∃ y, Instr.effect i { g with sum := x } = { Instr.effect i g with sum := y } := by
  refine ⟨(Instr.effect i { g with sum := x }).sum, ?_⟩
  cases i with
  | wrCtrlNop clr keyclr | wrCtrlEnc clr keyclr | wrCtrlDec clr keyclr =>
    apply Engine.ext_registers <;> simp [Instr.effect]
  | _ => rfl

/-- Idle or busy, a transaction keeps a difference in SUM to SUM. -/
theorem Instr.hostEngine_withSum (i : Instr) (g : Engine) (x : Word) :
    ∃ y, Instr.hostEngine i { g with sum := x } = { Instr.hostEngine i g with sum := y } := by
  rcases Bool.eq_false_or_eq_true g.busy with hb | hb
  · cases hw : i.isWrite with
    | false => exact ⟨x, by rw [Instr.hostEngine_read _ hw, Instr.hostEngine_read _ hw]⟩
    | true =>
      rw [Instr.hostEngine_busy hw hb, Instr.hostEngine_busy (g := { g with sum := x }) hw hb]
      exact ⟨x, rfl⟩
  · rw [Instr.hostEngine_of_idle i hb, Instr.hostEngine_of_idle (g := { g with sum := x }) i hb]
    exact Instr.effect_withSum i g x

/-- Settles O59: neither the answer nor a register but SUM depends on SUM. -/
theorem sumIsNotObservable : Obligations.SumIsNotObservable := by
  unfold Obligations.SumIsNotObservable
  intro i s s' hsame hbus
  have heng : s'.eng = { s.eng with sum := s'.eng.sum } := hsame.symm
  obtain ⟨y, hhost⟩ := Instr.hostEngine_withSum i s.eng s'.eng.sum
  have hanswer := Instr.answer_withSum i s.eng s'.eng.sum
  rw [← heng] at hhost hanswer
  refine ⟨_, _, exec_eq i s, exec_eq i s', ?_⟩
  rw [hhost, hanswer]
  exact ⟨rfl, rfl, hbus, rfl⟩

end Sys2Proof.Machine
